-- ==== Sys2Proof/Word.lean ====
section
/-! DEFINITION. The widths of the block's values (spec 00_scope.md R8, R10). -/

namespace Sys2Proof

/-- An 8-bit register value or byte (R10: 0 to 255). -/
abbrev Byte := BitVec 8

/-- A 16-bit register-pair value (R10: 0 to 65535). -/
abbrev PairWord := BitVec 16

/-- A 12-bit decoded instruction word `insn[11:0]` (30_encoding.md R71). -/
abbrev InsnWord := BitVec 12

end Sys2Proof
end

