-- ==== Sys2Proof/Config.lean ====
section
/-! DEFINITION. What an implementation fixes and what the spec leaves open (spec 00_scope.md R8,
93_implementation_defined.md U1, U2, U8). The `opaque` constants have no body: no proof can use a
value of them. -/

namespace Sys2Proof

/-- `ROT_N`, the rotate count of the rotates not through carry: 1 in this hardware
(00_scope.md R8, 43_rotate_shift.md R193; the spec's decision D11; log entry 8). -/
def Config.rotN : Nat := 1

/-- `INIT_STATE`, register A (70_reset_and_hazards.md R260, R261: an OPEN parameter, never one
fixed value). DESIGN CHOICE, log entry 1; the same for the ten constants below. -/
opaque Config.initA : Byte
/-- `INIT_STATE`, register B. -/
opaque Config.initB : Byte
/-- `INIT_STATE`, register C. -/
opaque Config.initC : Byte
/-- `INIT_STATE`, register D. -/
opaque Config.initD : Byte
/-- `INIT_STATE`, register E. -/
opaque Config.initE : Byte
/-- `INIT_STATE`, register H. -/
opaque Config.initH : Byte
/-- `INIT_STATE`, register L. -/
opaque Config.initL : Byte
/-- `INIT_STATE`, flag Z. -/
opaque Config.initFlagZ : Bool
/-- `INIT_STATE`, flag N. -/
opaque Config.initFlagN : Bool
/-- `INIT_STATE`, flag H. -/
opaque Config.initFlagH : Bool
/-- `INIT_STATE`, flag C. -/
opaque Config.initFlagC : Bool

/-- The bits on `ex_status` where no Execute drives it: "any value"
(93_implementation_defined.md U8; 40_dispatch.md R101). DESIGN CHOICE, log entry 4: one free value
for each index. -/
opaque Config.freeExStatus : Nat → BitVec 2

end Sys2Proof
end

