-- ==== Sys2Proof/Syntax.lean ====
section
/-! DEFINITION. The decoded instructions of the block (spec 30_encoding.md R70 to R76): one
constructor of `Instr` for each row of spec/opcode_table.json. -/

namespace Sys2Proof

/-- The seven registers a target-register selector can name (30_encoding.md R73). F is not one. -/
inductive Reg8 where
  | a | b | c | d | e | h | l
deriving DecidableEq, Repr

/-- The operation tag: a closed enumeration of 28 (30_encoding.md R72), in the order of its codes. -/
inductive OpTag where
  | add | adc | sub | sbc | and | xor | or | cp | inc | dec | addhl
  | cpl | scf | ccf | rlca | rrca | rla | rra
  | rlc | rrc | rl | rr | sla | srl | swap | bit | res | set
deriving DecidableEq, Repr

/-- The operand classes (30_encoding.md R75). -/
inductive OperandClass where
  | acc | hlsum | inplace | implicit | bittest | bitinplace
deriving DecidableEq, Repr

/-- A decoded instruction. The register is the one `sel` names. IMPLICIT instructions carry none,
since its value is not used (R75, R107); `pos` stands only where it is looked at (R74). It keeps
its four bits, so that a position outside 0 to 7 can be written down and refused (R233). -/
inductive Instr where
  | add (r : Reg8)
  | adc (r : Reg8)
  | sub (r : Reg8)
  | sbc (r : Reg8)
  | and (r : Reg8)
  | xor (r : Reg8)
  | or (r : Reg8)
  | cp (r : Reg8)
  | inc (r : Reg8)
  | dec (r : Reg8)
  | addhl (r : Reg8)
  | cpl
  | scf
  | ccf
  | rlca
  | rrca
  | rla
  | rra
  | rlc (r : Reg8)
  | rrc (r : Reg8)
  | rl (r : Reg8)
  | rr (r : Reg8)
  | sla (r : Reg8)
  | srl (r : Reg8)
  | swap (r : Reg8)
  | bit (pos : BitVec 4) (r : Reg8)
  | res (pos : BitVec 4) (r : Reg8)
  | set (pos : BitVec 4) (r : Reg8)
deriving DecidableEq, Repr

/-- The three errors an Execute can raise (60_exceptions.md R230 to R233). -/
inductive ExError where
  | invalidOperation
  | invalidRegisterSelector
  | invalidBitPosition
deriving DecidableEq, Repr

/-- What `ex_status` says of an Execute: it committed, or it raised an error
(60_exceptions.md R236). -/
inductive ExStatus where
  | ok
  | raised (e : ExError)
deriving DecidableEq, Repr

/-- The four register pairs (10_state.md R29). -/
inductive Pair where
  | bc | de | hl | af
deriving DecidableEq, Repr

/-- A transaction of the host (40_dispatch.md R104: `Execute(w) | SetPair(P, v)`). -/
inductive Transaction where
  | execute (w : InsnWord)
  | setPair (p : Pair) (v : PairWord)
deriving DecidableEq, Repr

end Sys2Proof
end

