-- ==== Sys2Proof/WellFormed.lean ====
section
/-! DEFINITION. Which instruction terms stand for a legal word (spec 30_encoding.md R74, R77). -/

namespace Sys2Proof

/-- A bit position BIT, RES and SET accept: 0 to 7 (30_encoding.md R74). -/
def legalPosition (pos : BitVec 4) : Bool := decide (pos.toNat < 8)

/-- `i` is an instruction that some word specifies: its bit position, if it has one, is 0 to 7. -/
def Instr.wellFormed (i : Instr) : Bool :=
  match i with
  | .add _ | .adc _ | .sub _ | .sbc _ | .and _ | .xor _ | .or _ | .cp _ => true
  | .inc _ | .dec _ | .addhl _ => true
  | .cpl | .scf | .ccf | .rlca | .rrca | .rla | .rra => true
  | .rlc _ | .rrc _ | .rl _ | .rr _ | .sla _ | .srl _ | .swap _ => true
  | .bit pos _ => legalPosition pos
  | .res pos _ => legalPosition pos
  | .set pos _ => legalPosition pos

end Sys2Proof
end

