-- ==== Sys2Proof/Decode.lean ====
section
/-! DEFINITION. From a 12-bit word to an instruction or a named error, total on all 4096 words, and
back (spec 30_encoding.md R71 to R82). -/

namespace Sys2Proof

/-! ### The fields of a word (R71) -/

/-- `op = insn[11:7]`. -/
def opField (w : InsnWord) : BitVec 5 := w.extractLsb' 7 5

/-- `sel = insn[6:4]`. -/
def selField (w : InsnWord) : BitVec 3 := w.extractLsb' 4 3

/-- `pos = insn[3:0]`. -/
def posField (w : InsnWord) : BitVec 4 := w.extractLsb' 0 4

/-- `insn = (op << 7) | (sel << 4) | pos`. -/
def wordOf (op : BitVec 5) (sel : BitVec 3) (pos : BitVec 4) : InsnWord :=
  (op.setWidth 12 <<< 7) ||| (sel.setWidth 12 <<< 4) ||| pos.setWidth 12

/-! ### The codes (R72, R73, 40_dispatch.md R103, 60_exceptions.md R236) -/

/-- The operation a code names; codes 28 to 31 are unassigned (R72). -/
def OpTag.ofCode (op : BitVec 5) : Option OpTag :=
  match op.toNat with
  | 0 => some .add
  | 1 => some .adc
  | 2 => some .sub
  | 3 => some .sbc
  | 4 => some .and
  | 5 => some .xor
  | 6 => some .or
  | 7 => some .cp
  | 8 => some .inc
  | 9 => some .dec
  | 10 => some .addhl
  | 11 => some .cpl
  | 12 => some .scf
  | 13 => some .ccf
  | 14 => some .rlca
  | 15 => some .rrca
  | 16 => some .rla
  | 17 => some .rra
  | 18 => some .rlc
  | 19 => some .rrc
  | 20 => some .rl
  | 21 => some .rr
  | 22 => some .sla
  | 23 => some .srl
  | 24 => some .swap
  | 25 => some .bit
  | 26 => some .res
  | 27 => some .set
  | _ => none

/-- The code of an operation (R72). -/
def OpTag.code (t : OpTag) : BitVec 5 :=
  match t with
  | .add => 0
  | .adc => 1
  | .sub => 2
  | .sbc => 3
  | .and => 4
  | .xor => 5
  | .or => 6
  | .cp => 7
  | .inc => 8
  | .dec => 9
  | .addhl => 10
  | .cpl => 11
  | .scf => 12
  | .ccf => 13
  | .rlca => 14
  | .rrca => 15
  | .rla => 16
  | .rra => 17
  | .rlc => 18
  | .rrc => 19
  | .rl => 20
  | .rr => 21
  | .sla => 22
  | .srl => 23
  | .swap => 24
  | .bit => 25
  | .res => 26
  | .set => 27

/-- The map REG of a selector code; code 6 names no register (R73). -/
def Reg8.ofCode (sel : BitVec 3) : Option Reg8 :=
  match sel.toNat with
  | 0 => some .b
  | 1 => some .c
  | 2 => some .d
  | 3 => some .e
  | 4 => some .h
  | 5 => some .l
  | 7 => some .a
  | _ => none

/-- The selector code of a register (R73). -/
def Reg8.code (r : Reg8) : BitVec 3 :=
  match r with
  | .b => 0
  | .c => 1
  | .d => 2
  | .e => 3
  | .h => 4
  | .l => 5
  | .a => 7

/-- The pair a `wr_pair` code names; every code is valid (40_dispatch.md R103). -/
def Pair.ofCode (wrPair : BitVec 2) : Pair :=
  match wrPair.toNat with
  | 0 => .bc
  | 1 => .de
  | 2 => .hl
  | _ => .af

/-- The `wr_pair` code of a pair (40_dispatch.md R103). -/
def Pair.code (p : Pair) : BitVec 2 :=
  match p with
  | .bc => 0
  | .de => 1
  | .hl => 2
  | .af => 3

/-- The code of a status on `ex_status` (60_exceptions.md R236). -/
def ExStatus.code (st : ExStatus) : BitVec 2 :=
  match st with
  | .ok => 0
  | .raised .invalidOperation => 1
  | .raised .invalidRegisterSelector => 2
  | .raised .invalidBitPosition => 3

/-- The status a code on `ex_status` stands for (60_exceptions.md R236). -/
def ExStatus.ofCode (bits : BitVec 2) : ExStatus :=
  match bits.toNat with
  | 0 => .ok
  | 1 => .raised .invalidOperation
  | 2 => .raised .invalidRegisterSelector
  | _ => .raised .invalidBitPosition

/-! ### Decoding -/

/-- The operand class of an operation (R72, R75). -/
def OpTag.operandClass (t : OpTag) : OperandClass :=
  match t with
  | .add | .adc | .sub | .sbc | .and | .xor | .or | .cp => .acc
  | .addhl => .hlsum
  | .inc | .dec | .rlc | .rrc | .rl | .rr | .sla | .srl | .swap => .inplace
  | .cpl | .scf | .ccf | .rlca | .rrca | .rla | .rra => .implicit
  | .bit => .bittest
  | .res | .set => .bitinplace

/-- The operations that look at `pos`: BIT, RES and SET (R74). -/
def OpTag.usesPosition (t : OpTag) : Bool :=
  match t.operandClass with
  | .bittest | .bitinplace => true
  | .acc | .hlsum | .inplace | .implicit => false

/-- The operations that use the register `sel` names: all but the IMPLICIT class (R75). -/
def OpTag.usesSelector (t : OpTag) : Bool :=
  match t.operandClass with
  | .implicit => false
  | .acc | .hlsum | .inplace | .bittest | .bitinplace => true

/-- The instruction made of an operation, the register `sel` names and `pos`; the fields an
operation does not use are dropped (R74, R75). -/
def OpTag.instr (t : OpTag) (r : Reg8) (pos : BitVec 4) : Instr :=
  match t with
  | .add => .add r
  | .adc => .adc r
  | .sub => .sub r
  | .sbc => .sbc r
  | .and => .and r
  | .xor => .xor r
  | .or => .or r
  | .cp => .cp r
  | .inc => .inc r
  | .dec => .dec r
  | .addhl => .addhl r
  | .cpl => .cpl
  | .scf => .scf
  | .ccf => .ccf
  | .rlca => .rlca
  | .rrca => .rrca
  | .rla => .rla
  | .rra => .rra
  | .rlc => .rlc r
  | .rrc => .rrc r
  | .rl => .rl r
  | .rr => .rr r
  | .sla => .sla r
  | .srl => .srl r
  | .swap => .swap r
  | .bit => .bit pos r
  | .res => .res pos r
  | .set => .set pos r

/-- The decoder, total on all 4096 words. The checks stand in the priority order of
60_exceptions.md R234: the operation, then the selector, then the bit position
(30_encoding.md R77, 40_dispatch.md R106). -/
def decode (w : InsnWord) : Except ExError Instr :=
  match OpTag.ofCode (opField w) with
  | none => .error .invalidOperation
  | some t =>
    match Reg8.ofCode (selField w) with
    | none => .error .invalidRegisterSelector
    | some r =>
      if t.usesPosition && !legalPosition (posField w) then .error .invalidBitPosition
      else .ok (t.instr r (posField w))

/-! ### Encoding -/

/-- The operation tag of an instruction. -/
def Instr.tag (i : Instr) : OpTag :=
  match i with
  | .add _ => .add
  | .adc _ => .adc
  | .sub _ => .sub
  | .sbc _ => .sbc
  | .and _ => .and
  | .xor _ => .xor
  | .or _ => .or
  | .cp _ => .cp
  | .inc _ => .inc
  | .dec _ => .dec
  | .addhl _ => .addhl
  | .cpl => .cpl
  | .scf => .scf
  | .ccf => .ccf
  | .rlca => .rlca
  | .rrca => .rrca
  | .rla => .rla
  | .rra => .rra
  | .rlc _ => .rlc
  | .rrc _ => .rrc
  | .rl _ => .rl
  | .rr _ => .rr
  | .sla _ => .sla
  | .srl _ => .srl
  | .swap _ => .swap
  | .bit _ _ => .bit
  | .res _ _ => .res
  | .set _ _ => .set

/-- The register the instruction's `sel` names; A where the mnemonic takes no register
(30_encoding.md R80: canonical `sel` = 7). -/
def Instr.selected (i : Instr) : Reg8 :=
  match i with
  | .add r | .adc r | .sub r | .sbc r | .and r | .xor r | .or r | .cp r => r
  | .inc r | .dec r | .addhl r => r
  | .cpl | .scf | .ccf | .rlca | .rrca | .rla | .rra => .a
  | .rlc r | .rrc r | .rl r | .rr r | .sla r | .srl r | .swap r => r
  | .bit _ r | .res _ r | .set _ r => r

/-- The instruction's `pos`; 0 where the mnemonic takes no position (30_encoding.md R80). -/
def Instr.position (i : Instr) : BitVec 4 :=
  match i with
  | .add _ | .adc _ | .sub _ | .sbc _ | .and _ | .xor _ | .or _ | .cp _ => 0
  | .inc _ | .dec _ | .addhl _ => 0
  | .cpl | .scf | .ccf | .rlca | .rrca | .rla | .rra => 0
  | .rlc _ | .rrc _ | .rl _ | .rr _ | .sla _ | .srl _ | .swap _ => 0
  | .bit pos _ | .res pos _ | .set pos _ => pos

/-- The canonical word of an instruction (30_encoding.md R80, R82). -/
def encode (i : Instr) : InsnWord := wordOf i.tag.code i.selected.code i.position

/-- The instruction a number of the opcode table's numbering stands for: the low `nbits` bits are
the word, and a number that does not fit the block's 12 bits is no word of it (log entry 10). -/
def decodeTableWord (nbits w : Nat) : Option Instr :=
  if w % 2 ^ nbits < 4096 then
    match decode (BitVec.ofNat 12 (w % 2 ^ nbits)) with
    | .ok i => some i
    | .error _ => none
  else none

/-! ### The assembler syntax of the spec's test programs (30_encoding.md R80) -/

/-- A register's name in lower case (R80). -/
def Reg8.asm (r : Reg8) : String :=
  match r with
  | .a => "a"
  | .b => "b"
  | .c => "c"
  | .d => "d"
  | .e => "e"
  | .h => "h"
  | .l => "l"

/-- A pair's name in lower case (R80). -/
def Pair.asm (p : Pair) : String :=
  match p with
  | .af => "af"
  | .bc => "bc"
  | .de => "de"
  | .hl => "hl"

/-- The mnemonic of an operation (R72). -/
def OpTag.mnemonic (t : OpTag) : String :=
  match t with
  | .add => "ADD"
  | .adc => "ADC"
  | .sub => "SUB"
  | .sbc => "SBC"
  | .and => "AND"
  | .xor => "XOR"
  | .or => "OR"
  | .cp => "CP"
  | .inc => "INC"
  | .dec => "DEC"
  | .addhl => "ADDHL"
  | .cpl => "CPL"
  | .scf => "SCF"
  | .ccf => "CCF"
  | .rlca => "RLCA"
  | .rrca => "RRCA"
  | .rla => "RLA"
  | .rra => "RRA"
  | .rlc => "RLC"
  | .rrc => "RRC"
  | .rl => "RL"
  | .rr => "RR"
  | .sla => "SLA"
  | .srl => "SRL"
  | .swap => "SWAP"
  | .bit => "BIT"
  | .res => "RES"
  | .set => "SET"

/-- The instruction as R80 writes it: the mnemonic, then a position where it takes one, then a
register where it takes one. -/
def Instr.asm (i : Instr) : String :=
  match i.tag.operandClass with
  | .implicit => i.tag.mnemonic
  | .acc | .hlsum | .inplace => i.tag.mnemonic ++ " " ++ i.selected.asm
  | .bittest | .bitinplace =>
    i.tag.mnemonic ++ " " ++ toString i.position.toNat ++ ", " ++ i.selected.asm

end Sys2Proof
end

