-- ==== Sys2Proof/Machine/State.lean ====
section
/-! DEFINITION. The block's state: the 60 bits of spec 10_state.md R20 (`rf`), and beside them the
block's ports, which a step of `State → Outcome` has nowhere else to show. -/

namespace Sys2Proof.Machine

/-- The flag record F: four independent bits (10_state.md R25). -/
structure Flags where
  z : Bool
  n : Bool
  h : Bool
  c : Bool
deriving DecidableEq, Repr

/-- The register file: seven 8-bit registers and F, the whole architectural state
(10_state.md R20, R21, R35). -/
structure RegFile where
  a : Byte
  b : Byte
  c : Byte
  d : Byte
  e : Byte
  h : Byte
  l : Byte
  f : Flags
deriving DecidableEq, Repr

/-- The values the host puts on the block's input ports in one step
(40_dispatch.md R101, R103). -/
structure PortInputs where
  exEn : Bool
  exInsn : InsnWord
  wrEn : Bool
  wrPair : BitVec 2
  wrData : PairWord
deriving DecidableEq, Repr

/-- The state of the machine. `rf` is the spec's; the other three fields are the model's own. -/
structure State where
  /-- The register file (R20). -/
  rf : RegFile
  /-- What the host presents in the coming steps, the next first (40_dispatch.md R100, R114;
  log entry 2). -/
  inputs : List PortInputs
  /-- The output `ex_status` after the latest step (R101, R236). No step reads it (R36; log
  entry 3). -/
  exStatus : ExStatus
  /-- The index of the next free value of `ex_status` (log entry 4). -/
  freeIdx : Nat
deriving DecidableEq, Repr

/-- Faults that stop the machine: none. Every error of the block is reported on `ex_status` and the
block goes on (60_exceptions.md R235, R237; 40_dispatch.md R114), so it is a next state
(log entry 5). Safe: the type is empty, so no step can answer a fault. -/
inductive Fault where
deriving DecidableEq, Repr

/-- Steps to which the model gives no meaning. -/
inductive Refusal where
  /-- Raised by an arm of `exec` whose instruction has no meaning yet; no arm does. Safe. -/
  | notModelled (mnemonic : String)
  /-- Raised by a step in which the host asserts `ex_en` and `wr_en` together: it "has no meaning
  in this spec, and a model refuses it" (40_dispatch.md R104, 93_implementation_defined.md U9;
  log entry 7). Safe: nothing can be proved of what such a step does. -/
  | simultaneousRequests
deriving DecidableEq, Repr

/-- What a step of this machine answers. -/
abbrev Outcome := Host.Outcome State Fault Refusal

/-- The state of an instance with the given `INIT_STATE` that the host will drive with the given
inputs (70_reset_and_hazards.md R260, R261). `ex_status` holds a free value, since no Execute has
driven it (U8; log entry 4). -/
def State.initial (init : RegFile) (inputs : List PortInputs) : State :=
  { rf := init
    inputs := inputs
    exStatus := ExStatus.ofCode (Config.freeExStatus 0)
    freeIdx := 1 }

/-- The OPEN parameter `INIT_STATE` (70_reset_and_hazards.md R260; log entry 1). -/
def initState : RegFile :=
  { a := Config.initA
    b := Config.initB
    c := Config.initC
    d := Config.initD
    e := Config.initE
    h := Config.initH
    l := Config.initL
    f := { z := Config.initFlagZ, n := Config.initFlagN, h := Config.initFlagH, c := Config.initFlagC } }

/-- The machine as an instance comes into being: `INIT_STATE`, and nothing presented yet
(70_reset_and_hazards.md R260, R262). -/
def State.reset : State := State.initial initState []

end Sys2Proof.Machine
end

