-- ==== Sys2Proof/Machine/Flags.lean ====
section
/-! DEFINITION. The flag codec (spec 10_state.md R26, R27) and the flag computations of the
families (41_arith.md R130; 43_rotate_shift.md R181). -/

namespace Sys2Proof.Machine

/-- A flag as the byte 0 or 1. -/
def flagByte (b : Bool) : Byte := if b then 1#8 else 0#8

/-- `encode(F)`: Z, N, H, C in bits 7 to 4, zeros below (10_state.md R26):
`(F.Z << 7) | (F.N << 6) | (F.H << 5) | (F.C << 4)`. -/
def encodeFlags (f : Flags) : Byte :=
  (flagByte f.z <<< 7) ||| (flagByte f.n <<< 6) ||| (flagByte f.h <<< 5) ||| (flagByte f.c <<< 4)

/-- `decode(b)`: bits 7 to 4; bits 3 to 0 are ignored (10_state.md R27). -/
def decodeFlags (b : Byte) : Flags :=
  { z := b.getLsbD 7, n := b.getLsbD 6, h := b.getLsbD 5, c := b.getLsbD 4 }

/-- A flag as the number 0 or 1 (`cin` of 41_arith.md). -/
def flagNat (b : Bool) : Nat := if b then 1 else 0

/-- `v & 0xF` as a number. -/
def lowNibble (v : Byte) : Nat := (v &&& 0xF#8).toNat

/-- `res == 0`. -/
def isZero (res : Byte) : Bool := res == 0#8

/-- Carry out of bit 3: an exact nibble sum above 0xF (00_scope.md R13, 41_arith.md R130). -/
def nibbleCarry (hsum : Nat) : Bool := decide (hsum > 0xF)

/-- Carry out of bit 7: an exact sum above 255 (00_scope.md R13, 41_arith.md R130). -/
def byteCarry (sum : Nat) : Bool := decide (sum > 255)

/-- Borrow: an exact difference of naturals below zero (00_scope.md R13; 41_arith.md R133, R134). -/
def borrow (minuend subtrahend : Nat) : Bool := decide (minuend < subtrahend)

end Sys2Proof.Machine
end

