-- ==== Sys2Proof/Machine/Ops.lean ====
section
/-! DEFINITION. The named operations over the register file and the ports: 8-bit reads and writes,
the pair views, the commit, raising an error, presenting a word. The block has no memory
(spec 20_memory.md R50), so there is no memory operation. -/

namespace Sys2Proof.Machine

/-! ### Values (00_scope.md R10) -/

/-- `trunc8(v) = v mod 256` for any integer, with the non-negative remainder. -/
def trunc8 (v : Int) : Byte := BitVec.ofInt 8 v

/-- `zext_16(v)`. -/
def zext16 (v : Byte) : PairWord := v.setWidth 16

/-- `(h << 8) | l`, a 16-bit value of two bytes (10_state.md R30). -/
def pairOf (h l : Byte) : PairWord := (zext16 h <<< 8) ||| zext16 l

/-- `hi(p) = p[15:8]`. -/
def hi (p : PairWord) : Byte := p.extractLsb' 8 8

/-- `lo(p) = p[7:0]`. -/
def lo (p : PairWord) : Byte := p.extractLsb' 0 8

/-! ### Registers (R11, 10_state.md R21) -/

/-- `x[r]`. -/
def RegFile.read (rf : RegFile) (r : Reg8) : Byte :=
  match r with
  | .a => rf.a
  | .b => rf.b
  | .c => rf.c
  | .d => rf.d
  | .e => rf.e
  | .h => rf.h
  | .l => rf.l

/-- `x[r] <- v`. -/
def RegFile.write (rf : RegFile) (r : Reg8) (v : Byte) : RegFile :=
  match r with
  | .a => { rf with a := v }
  | .b => { rf with b := v }
  | .c => { rf with c := v }
  | .d => { rf with d := v }
  | .e => { rf with e := v }
  | .h => { rf with h := v }
  | .l => { rf with l := v }

/-- `F <- f`. -/
def RegFile.writeFlags (rf : RegFile) (f : Flags) : RegFile := { rf with f := f }

/-! ### Pairs (10_state.md R29 to R31) -/

/-- `getPair(P)`: the first register high, the second (for AF the flag byte) low (R30). -/
def RegFile.getPair (rf : RegFile) (p : Pair) : PairWord :=
  match p with
  | .af => pairOf rf.a (encodeFlags rf.f)
  | .bc => pairOf rf.b rf.c
  | .de => pairOf rf.d rf.e
  | .hl => pairOf rf.h rf.l

/-- `setPair(P, v)`: both halves in one update; for AF the low byte goes through the codec and its
bits 3:0 are discarded (R31, R32). -/
def RegFile.setPair (rf : RegFile) (p : Pair) (v : PairWord) : RegFile :=
  match p with
  | .af => { rf with a := hi v, f := decodeFlags (lo v) }
  | .bc => { rf with b := hi v, c := lo v }
  | .de => { rf with d := hi v, e := lo v }
  | .hl => { rf with h := hi v, l := lo v }

/-! ### The commit (40_dispatch.md R105, R106) -/

/-- Where an operation's result goes: A, the selected register, the pair HL, or nowhere
(40_dispatch.md R105). -/
inductive CommitTarget where
  | a | s | hl | none
deriving DecidableEq, Repr

/-- What the engine computes: a byte result and the four flags, an unaffected flag copied from the
old record (40_dispatch.md R106). -/
structure EngineResult where
  res : Byte
  flags : Flags
deriving DecidableEq, Repr

/-- The commit target of each operation (40_dispatch.md R105). -/
def commitTarget (t : OpTag) : CommitTarget :=
  match t with
  | .add | .adc | .sub | .sbc | .and | .or | .xor | .cpl | .rlca | .rrca | .rla | .rra => .a
  | .addhl => .hl
  | .inc | .dec | .rlc | .rrc | .rl | .rr | .sla | .srl | .swap | .set | .res => .s
  | .bit | .cp | .scf | .ccf => .none

/-- The register write of a commit; `r` is the selected register (R106). -/
def RegFile.commit (rf : RegFile) (t : CommitTarget) (r : Reg8) (res : Byte) : RegFile :=
  match t with
  | .a => rf.write .a res
  | .s => rf.write r res
  | .hl => rf.setPair .hl (zext16 res)
  | .none => rf

/-- One commit: the register write, `F <- Fnew` and `ex_status <- OK`, together at the end of the
transaction (R106, R110). -/
def State.commit (s : State) (t : CommitTarget) (r : Reg8) (e : EngineResult) : State :=
  { s with rf := (s.rf.commit t r e.res).writeFlags e.flags, exStatus := .ok }

/-- Raising an error: no register and no flag changes, and the error is reported on `ex_status`
(60_exceptions.md R235 to R238). The block has no trap entry and no return from one. -/
def State.raiseError (s : State) (e : ExError) : State := { s with exStatus := .raised e }

/-! ### The ports -/

/-- A step without an Execute leaves any value on `ex_status` (U8; log entry 4): the free value at
the counter, which moves on. -/
def State.freeStatus (s : State) : State :=
  { s with exStatus := ExStatus.ofCode (Config.freeExStatus s.freeIdx), freeIdx := s.freeIdx + 1 }

/-- The port values of a step that requests Execute of the word `w` and nothing else. -/
def PortInputs.execute (w : InsnWord) : PortInputs :=
  { exEn := true, exInsn := w, wrEn := false, wrPair := 0, wrData := 0 }

/-- The port values of a step that requests SetPair and nothing else. -/
def PortInputs.setPair (p : Pair) (v : PairWord) : PortInputs :=
  { exEn := false, exInsn := 0, wrEn := true, wrPair := p.code, wrData := v }

/-- The host presents `p` in the very next step, before what it was to present. -/
def State.present (s : State) (p : PortInputs) : State := { s with inputs := p :: s.inputs }

end Sys2Proof.Machine
end

