-- ==== Sys2Proof/Machine/Outputs.lean ====
section
/-! DEFINITION. The state outputs, read at any time without effect (spec 40_dispatch.md R102). -/

namespace Sys2Proof.Machine

/-- The block's output ports. -/
structure Outputs where
  aO : Byte
  bO : Byte
  cO : Byte
  dO : Byte
  eO : Byte
  hO : Byte
  lO : Byte
  fO : Byte
  afO : PairWord
  bcO : PairWord
  deO : PairWord
  hlO : PairWord
  exStatusO : BitVec 2
deriving DecidableEq, Repr

/-- What the ports show in a state (R101, R102). -/
def State.outputs (s : State) : Outputs :=
  { aO := s.rf.read .a
    bO := s.rf.read .b
    cO := s.rf.read .c
    dO := s.rf.read .d
    eO := s.rf.read .e
    hO := s.rf.read .h
    lO := s.rf.read .l
    fO := encodeFlags s.rf.f
    afO := s.rf.getPair .af
    bcO := s.rf.getPair .bc
    deO := s.rf.getPair .de
    hlO := s.rf.getPair .hl
    exStatusO := s.exStatus.code }

end Sys2Proof.Machine
end

