-- ==== Sys2Proof/Machine/Operands.lean ====
section
/-! DEFINITION. The operand forms: what each operand class of spec 30_encoding.md R75 hands to the
engine and how its result is committed (40_dispatch.md R105 to R107). Every read is of the state
before the transaction (R110). -/

namespace Sys2Proof.Machine

/-- ACC class: the engine gets A, the selected register and F. -/
def runAcc (t : OpTag) (engine : Byte → Byte → Flags → EngineResult) (r : Reg8) (s : State) : Outcome :=
  .next (s.commit (commitTarget t) r (engine (s.rf.read .a) (s.rf.read r) s.rf.f))

/-- HLSUM class: the engine gets the selected register, H, L and F. -/
def runHlSum (t : OpTag) (engine : Byte → Byte → Byte → Flags → EngineResult) (r : Reg8) (s : State) :
    Outcome :=
  .next (s.commit (commitTarget t) r (engine (s.rf.read r) (s.rf.read .h) (s.rf.read .l) s.rf.f))

/-- INPLACE class: the engine gets the selected register and F. -/
def runInPlace (t : OpTag) (engine : Byte → Flags → EngineResult) (r : Reg8) (s : State) : Outcome :=
  .next (s.commit (commitTarget t) r (engine (s.rf.read r) s.rf.f))

/-- IMPLICIT class: the engine gets A and F; no selected register is used (R107). -/
def runImplicit (t : OpTag) (engine : Byte → Flags → EngineResult) (s : State) : Outcome :=
  .next (s.commit (commitTarget t) .a (engine (s.rf.read .a) s.rf.f))

/-- BITTEST and BITINPLACE classes: the engine gets the position, the selected register and F. A
position outside 0 to 7 raises InvalidBitPosition before the engine is called
(60_exceptions.md R233; log entry 6 on terms no word decodes to). -/
def runBit (t : OpTag) (engine : Nat → Byte → Flags → EngineResult) (pos : BitVec 4) (r : Reg8)
    (s : State) : Outcome :=
  if legalPosition pos then
    .next (s.commit (commitTarget t) r (engine pos.toNat (s.rf.read r) s.rf.f))
  else .next (s.raiseError .invalidBitPosition)

end Sys2Proof.Machine
end

