-- ==== Sys2Proof/Machine/Arith.lean ====
section
/-! DEFINITION. Arithmetic (spec 41_arith.md). Results are truncated to 8 bits; half-carry and carry
come from the exact intermediate values (R130). -/

namespace Sys2Proof.Machine

/-! ### The engine -/

/-- ADD (R131). -/
def addEngine (a v : Byte) (_f : Flags) : EngineResult :=
  let sum := a.toNat + v.toNat
  let res := trunc8 sum
  { res := res
    flags := { z := isZero res, n := false, h := nibbleCarry (lowNibble a + lowNibble v), c := byteCarry sum } }

/-- ADC (R132). -/
def adcEngine (a v : Byte) (f : Flags) : EngineResult :=
  let cin := flagNat f.c
  let sum := a.toNat + v.toNat + cin
  let res := trunc8 sum
  { res := res
    flags :=
      { z := isZero res, n := false, h := nibbleCarry (lowNibble a + lowNibble v + cin), c := byteCarry sum } }

/-- SUB, and CP whose result is discarded (R133, R135). -/
def subEngine (a v : Byte) (_f : Flags) : EngineResult :=
  let res := trunc8 ((a.toNat : Int) - v.toNat)
  { res := res
    flags := { z := isZero res, n := true, h := borrow (lowNibble a) (lowNibble v), c := borrow a.toNat v.toNat } }

/-- SBC (R134). -/
def sbcEngine (a v : Byte) (f : Flags) : EngineResult :=
  let cin := flagNat f.c
  let res := trunc8 ((a.toNat : Int) - v.toNat - cin)
  { res := res
    flags :=
      { z := isZero res, n := true, h := borrow (lowNibble a) (lowNibble v + cin)
        c := borrow a.toNat (v.toNat + cin) } }

/-- ADDHL (R136). -/
def addhlEngine (v h l : Byte) (_f : Flags) : EngineResult :=
  let sum := v.toNat + h.toNat + l.toNat
  let res := trunc8 sum
  { res := res
    flags :=
      { z := isZero res, n := false, h := nibbleCarry (lowNibble h + lowNibble l + lowNibble v)
        c := byteCarry sum } }

/-- INC (R137): C is unaffected. -/
def incEngine (v : Byte) (f : Flags) : EngineResult :=
  let res := trunc8 ((v.toNat : Int) + 1)
  { res := res, flags := { z := isZero res, n := false, h := nibbleCarry (lowNibble v + 1), c := f.c } }

/-- DEC (R138): C is unaffected. -/
def decEngine (v : Byte) (f : Flags) : EngineResult :=
  let res := trunc8 ((v.toNat : Int) - 1)
  { res := res, flags := { z := isZero res, n := true, h := decide (lowNibble v = 0), c := f.c } }

/-! ### The meanings -/

/-- ADD r (41_arith.md R131). -/
def execAdd (r : Reg8) (s : State) : Outcome := runAcc .add addEngine r s

/-- ADC r (R132). -/
def execAdc (r : Reg8) (s : State) : Outcome := runAcc .adc adcEngine r s

/-- SUB r (R133). -/
def execSub (r : Reg8) (s : State) : Outcome := runAcc .sub subEngine r s

/-- SBC r (R134). -/
def execSbc (r : Reg8) (s : State) : Outcome := runAcc .sbc sbcEngine r s

/-- CP r (R135): as SUB, and the commit target is none. -/
def execCp (r : Reg8) (s : State) : Outcome := runAcc .cp subEngine r s

/-- ADDHL r (R136): the byte result goes into HL zero-extended. -/
def execAddhl (r : Reg8) (s : State) : Outcome := runHlSum .addhl addhlEngine r s

/-- INC r (R137). -/
def execInc (r : Reg8) (s : State) : Outcome := runInPlace .inc incEngine r s

/-- DEC r (R138). -/
def execDec (r : Reg8) (s : State) : Outcome := runInPlace .dec decEngine r s

end Sys2Proof.Machine
end

