-- ==== Sys2Proof/Machine/BitOps.lean ====
section
/-! DEFINITION. Bit test, reset and set (spec 44_bit.md). -/

namespace Sys2Proof.Machine

/-! ### The engine -/

/-- The one-bit mask `1 << p` (30_encoding.md R76). -/
def bitMask (p : Nat) : Byte := 1#8 <<< p

/-- BIT (R211): C is unaffected; the result is committed nowhere. -/
def bitEngine (p : Nat) (v : Byte) (f : Flags) : EngineResult :=
  { res := v, flags := { z := isZero (v &&& bitMask p), n := false, h := true, c := f.c } }

/-- RES (R212): no flag is written. -/
def resEngine (p : Nat) (v : Byte) (f : Flags) : EngineResult := { res := v &&& ~~~bitMask p, flags := f }

/-- SET (R213): no flag is written. -/
def setEngine (p : Nat) (v : Byte) (f : Flags) : EngineResult := { res := v ||| bitMask p, flags := f }

/-! ### The meanings -/

/-- BIT p, r (44_bit.md R211). -/
def execBit (pos : BitVec 4) (r : Reg8) (s : State) : Outcome := runBit .bit bitEngine pos r s

/-- RES p, r (R212). -/
def execRes (pos : BitVec 4) (r : Reg8) (s : State) : Outcome := runBit .res resEngine pos r s

/-- SET p, r (R213). -/
def execSet (pos : BitVec 4) (r : Reg8) (s : State) : Outcome := runBit .set setEngine pos r s

end Sys2Proof.Machine
end

