-- ==== Sys2Proof/Machine/Logic.lean ====
section
/-! DEFINITION. Logic and flag operations (spec 42_logic_flags.md). -/

namespace Sys2Proof.Machine

/-! ### The engine -/

/-- AND, OR and XOR write Z from the result and clear N, H and C (R161 to R163). -/
def logicResult (res : Byte) : EngineResult :=
  { res := res, flags := { z := isZero res, n := false, h := false, c := false } }

/-- AND (R161; H is 0 as the source's table has it, decision D29). -/
def andEngine (a v : Byte) (_f : Flags) : EngineResult := logicResult (a &&& v)

/-- OR (R162). -/
def orEngine (a v : Byte) (_f : Flags) : EngineResult := logicResult (a ||| v)

/-- XOR (R163). -/
def xorEngine (a v : Byte) (_f : Flags) : EngineResult := logicResult (a ^^^ v)

/-- CPL (R164): Z and C are unaffected. -/
def cplEngine (a : Byte) (f : Flags) : EngineResult :=
  { res := ~~~a, flags := { f with n := true, h := true } }

/-- SCF (R165): Z is unaffected; the result is committed nowhere. -/
def scfEngine (a : Byte) (f : Flags) : EngineResult :=
  { res := a, flags := { f with n := false, h := false, c := true } }

/-- CCF (R166): Z is unaffected; the result is committed nowhere. -/
def ccfEngine (a : Byte) (f : Flags) : EngineResult :=
  { res := a, flags := { f with n := false, h := false, c := !f.c } }

/-! ### The meanings -/

/-- AND r (42_logic_flags.md R161). -/
def execAnd (r : Reg8) (s : State) : Outcome := runAcc .and andEngine r s

/-- OR r (R162). -/
def execOr (r : Reg8) (s : State) : Outcome := runAcc .or orEngine r s

/-- XOR r (R163). -/
def execXor (r : Reg8) (s : State) : Outcome := runAcc .xor xorEngine r s

/-- CPL (R164). -/
def execCpl (s : State) : Outcome := runImplicit .cpl cplEngine s

/-- SCF (R165). -/
def execScf (s : State) : Outcome := runImplicit .scf scfEngine s

/-- CCF (R166). -/
def execCcf (s : State) : Outcome := runImplicit .ccf ccfEngine s

end Sys2Proof.Machine
end

