-- ==== Sys2Proof/Machine/RotateShift.lean ====
section
/-! DEFINITION. Rotates, shifts and swap (spec 43_rotate_shift.md). -/

namespace Sys2Proof.Machine

/-! ### The helper functions of R181 -/

/-- `rotl(x, N) = trunc8((x << N) | (x >> (8 - N)))`. -/
def rotl (x : Byte) (n : Nat) : Byte := (x <<< n) ||| (x >>> (8 - n))

/-- `rotr(x, N) = trunc8((x >> N) | (x << (8 - N)))`. -/
def rotr (x : Byte) (n : Nat) : Byte := (x >>> n) ||| (x <<< (8 - n))

/-- `rlc1(x, c) = trunc8((x << 1) | c)`. -/
def rlc1 (x : Byte) (cin : Bool) : Byte := (x <<< 1) ||| flagByte cin

/-- `rrc1(x, c) = (c << 7) | (x >> 1)`. -/
def rrc1 (x : Byte) (cin : Bool) : Byte := (flagByte cin <<< 7) ||| (x >>> 1)

/-! ### The engine -/

/-- A register rotate, shift or swap writes Z from the result, clears N and H, and writes C. -/
def shiftResult (res : Byte) (carry : Bool) : EngineResult :=
  { res := res, flags := { z := isZero res, n := false, h := false, c := carry } }

/-- An A-register rotate leaves Z unaffected, clears N and H, and writes C (R181). -/
def accRotateResult (res : Byte) (carry : Bool) (f : Flags) : EngineResult :=
  { res := res, flags := { f with n := false, h := false, c := carry } }

/-- RLC by `n` positions (R186, R193): C gets bit 0 of the result. -/
def rlcEngine (n : Nat) (v : Byte) (_f : Flags) : EngineResult :=
  shiftResult (rotl v n) ((rotl v n).getLsbD 0)

/-- RRC by `n` positions (R187, R193): C gets bit 7 of the result. -/
def rrcEngine (n : Nat) (v : Byte) (_f : Flags) : EngineResult :=
  shiftResult (rotr v n) ((rotr v n).getLsbD 7)

/-- RL (R188). -/
def rlEngine (v : Byte) (f : Flags) : EngineResult := shiftResult (rlc1 v f.c) (v.getLsbD 7)

/-- RR (R189). -/
def rrEngine (v : Byte) (f : Flags) : EngineResult := shiftResult (rrc1 v f.c) (v.getLsbD 0)

/-- SLA (R190). -/
def slaEngine (v : Byte) (_f : Flags) : EngineResult := shiftResult (v <<< 1) (v.getLsbD 7)

/-- SRL (R191). -/
def srlEngine (v : Byte) (_f : Flags) : EngineResult := shiftResult (v >>> 1) (v.getLsbD 0)

/-- SWAP (R192): `(v[3:0] << 4) | v[7:4]`, and C is cleared. -/
def swapEngine (v : Byte) (_f : Flags) : EngineResult :=
  shiftResult (((v &&& 0xF#8) <<< 4) ||| (v >>> 4)) false

/-- RLCA by `n` positions (R182, R193). -/
def rlcaEngine (n : Nat) (a : Byte) (f : Flags) : EngineResult :=
  accRotateResult (rotl a n) ((rotl a n).getLsbD 0) f

/-- RRCA by `n` positions (R183, R193). -/
def rrcaEngine (n : Nat) (a : Byte) (f : Flags) : EngineResult :=
  accRotateResult (rotr a n) ((rotr a n).getLsbD 7) f

/-- RLA (R184). -/
def rlaEngine (a : Byte) (f : Flags) : EngineResult := accRotateResult (rlc1 a f.c) (a.getLsbD 7) f

/-- RRA (R185). -/
def rraEngine (a : Byte) (f : Flags) : EngineResult := accRotateResult (rrc1 a f.c) (a.getLsbD 0) f

/-! ### The meanings -/

/-- RLCA (43_rotate_shift.md R182). -/
def execRlca (s : State) : Outcome := runImplicit .rlca (rlcaEngine Config.rotN) s

/-- RRCA (R183). -/
def execRrca (s : State) : Outcome := runImplicit .rrca (rrcaEngine Config.rotN) s

/-- RLA (R184). -/
def execRla (s : State) : Outcome := runImplicit .rla rlaEngine s

/-- RRA (R185). -/
def execRra (s : State) : Outcome := runImplicit .rra rraEngine s

/-- RLC r (R186). -/
def execRlc (r : Reg8) (s : State) : Outcome := runInPlace .rlc (rlcEngine Config.rotN) r s

/-- RRC r (R187). -/
def execRrc (r : Reg8) (s : State) : Outcome := runInPlace .rrc (rrcEngine Config.rotN) r s

/-- RL r (R188). -/
def execRl (r : Reg8) (s : State) : Outcome := runInPlace .rl rlEngine r s

/-- RR r (R189). -/
def execRr (r : Reg8) (s : State) : Outcome := runInPlace .rr rrEngine r s

/-- SLA r (R190). -/
def execSla (r : Reg8) (s : State) : Outcome := runInPlace .sla slaEngine r s

/-- SRL r (R191). -/
def execSrl (r : Reg8) (s : State) : Outcome := runInPlace .srl srlEngine r s

/-- SWAP r (R192). -/
def execSwap (r : Reg8) (s : State) : Outcome := runInPlace .swap swapEngine r s

end Sys2Proof.Machine
end

