-- ==== Sys2Proof/Machine/Transactions.lean ====
section
/-! DEFINITION. The two transactions of the block, Execute and SetPair, and the step that takes the
next one from the ports (spec 40_dispatch.md R100 to R106, R113). -/

namespace Sys2Proof.Machine

/-- `Execute(w)`: an invalid word is reported and changes nothing, a legal one runs
(40_dispatch.md R106, R111; 60_exceptions.md R235). -/
def executeWord (w : InsnWord) (s : State) : Outcome :=
  match decode w with
  | .error e => .next (s.raiseError e)
  | .ok i => exec i s

/-- `SetPair(P, v)`: one atomic update, no error, no status (40_dispatch.md R103; 10_state.md R31,
R32). -/
def setPairTransaction (p : Pair) (v : PairWord) (s : State) : Outcome :=
  .next { s with rf := s.rf.setPair p v }.freeStatus

/-- One transaction (40_dispatch.md R104, R113). -/
def transact (t : Transaction) (s : State) : Outcome :=
  match t with
  | .execute w => executeWord w s
  | .setPair p v => setPairTransaction p v s

/-- A step in which the host asserts neither enable changes nothing (40_dispatch.md R104). -/
def idle (s : State) : Outcome := .next s.freeStatus

/-- What the enables of one step request: at most one transaction, and both together have no
meaning (40_dispatch.md R104, 93_implementation_defined.md U9). -/
def PortInputs.request (p : PortInputs) : Except Refusal (Option Transaction) :=
  match p.exEn, p.wrEn with
  | true, true => .error .simultaneousRequests
  | true, false => .ok (some (.execute p.exInsn))
  | false, true => .ok (some (.setPair (Pair.ofCode p.wrPair) p.wrData))
  | false, false => .ok none

/-- One step with the given port values. -/
def serve (p : PortInputs) (s : State) : Outcome :=
  match p.request with
  | .error r => .refused r
  | .ok none => idle s
  | .ok (some t) => transact t s

/-- The next step: it serves the port values the host presents next; where the host presents
nothing more, neither enable is asserted (log entry 2). -/
def serveNext (s : State) : Outcome :=
  match s.inputs with
  | [] => idle s
  | p :: rest => serve p { s with inputs := rest }

end Sys2Proof.Machine
end

