-- ==== Sys2Proof/Machine/Step.lean ====
section
/-! DEFINITION. The step of the machine (spec 40_dispatch.md R113) and the presenting of a word. -/

namespace Sys2Proof.Machine

/-- One step: the next transaction of the host, whole. -/
def step (s : State) : Host.Outcome State Fault Refusal := serveNext s

/-- The host presents, in the very next step, an Execute of the word with the opcode table's bits
`w` (bits at and above `nbits` zero): the block fetches nothing, it executes exactly the word on its
Execute port (20_memory.md R62, 40_dispatch.md R100; log entries 2 and 10). -/
def State.withFetchWord (s : State) (nbits w : Nat) : State :=
  s.present (PortInputs.execute (BitVec.ofNat 12 (w % 2 ^ nbits)))

end Sys2Proof.Machine
end

