-- ==== Sys2Proof/Safety.lean ====
section
/-! DEFINITION. What a safe run is: the host keeps its side of spec 40_dispatch.md R104, and no step
stops. -/

namespace Sys2Proof.Machine

/-- The host never asserts `ex_en` and `wr_en` in the same step (40_dispatch.md R104). -/
def State.hostKeepsContract (s : State) : Prop :=
  ∀ p ∈ s.inputs, ¬(p.exEn = true ∧ p.wrEn = true)

/-- A run of `k` steps from `s` is safe: it neither faults nor is refused. -/
def SafeRun (k : Nat) (s : State) : Prop := ∃ t, Sys2Proof.core.run k s = .next t

end Sys2Proof.Machine
end

