-- ==== Sys2Proof/Certificates/Slice0/Obligations.lean ====
section
/-! DEFINITION. The statements about the model, from the numbered rules of spec/. A docstring names the
rule a statement formalises, and says where it rests on a choice the spec marks as its own (decision
D<n> of 92_eei_decisions.md) or on the model's own (log entry <n>). -/

namespace Sys2Proof.Statements
open Sys2Proof.Machine

/-- `x[r]` in `s`, as a number 0 to 255. -/
def num (s : State) (r : Reg8) : Nat := (s.rf.read r).toNat

/-- F.C in `s` as 0 or 1. -/
def carryIn (s : State) : Nat := if s.rf.f.c then 1 else 0

/-- The frame of a successful Execute: every register but those of `written` keeps its value, the
status says OK, and what the host presents next and the counter of free values are untouched. -/
def Frame (s t : State) (written : List Reg8) : Prop :=
  (∀ x, x ∉ written → t.rf.read x = s.rf.read x) ∧
    t.exStatus = .ok ∧ t.inputs = s.inputs ∧ t.freeIdx = s.freeIdx

/-- An instruction that takes a register and no position has operation code `op`: its canonical word
is `op<<7 | sel<<4`, every `pos` decodes to it, and `sel` = 6 raises InvalidRegisterSelector. -/
def EncodedWithRegister (op : Nat) (mk : Reg8 → Instr) : Prop :=
  (∀ r : Reg8, (encode (mk r)).toNat = op * 128 + r.code.toNat * 16) ∧
  (∀ (r : Reg8) (pos : Fin 16),
    decode (BitVec.ofNat 12 (op * 128 + r.code.toNat * 16 + pos.val)) = .ok (mk r)) ∧
  (∀ pos : Fin 16,
    decode (BitVec.ofNat 12 (op * 128 + 6 * 16 + pos.val)) = .error .invalidRegisterSelector)

/-- An IMPLICIT instruction has operation code `op`: its canonical word is `op<<7 | 7<<4`, every `sel`
but 6 and every `pos` decode to it, and `sel` = 6 raises InvalidRegisterSelector. -/
def EncodedImplicit (op : Nat) (i : Instr) : Prop :=
  (encode i).toNat = op * 128 + 7 * 16 ∧
  (∀ (r : Reg8) (pos : Fin 16),
    decode (BitVec.ofNat 12 (op * 128 + r.code.toNat * 16 + pos.val)) = .ok i) ∧
  (∀ pos : Fin 16,
    decode (BitVec.ofNat 12 (op * 128 + 6 * 16 + pos.val)) = .error .invalidRegisterSelector)

/-- BIT, RES or SET has operation code `op`: its word is `op<<7 | sel<<4 | p`; `sel` = 6 raises
InvalidRegisterSelector whatever `pos` is; a `pos` of 8 to 15 raises InvalidBitPosition, from the
decoder and, by log entry 6, from the instruction term, which no word decodes to. -/
def EncodedWithPosition (op : Nat) (mk : BitVec 4 → Reg8 → Instr) : Prop :=
  (∀ (p : Fin 8) (r : Reg8),
    (encode (mk (BitVec.ofNat 4 p.val) r)).toNat = op * 128 + r.code.toNat * 16 + p.val) ∧
  (∀ (p : Fin 8) (r : Reg8),
    decode (BitVec.ofNat 12 (op * 128 + r.code.toNat * 16 + p.val)) = .ok (mk (BitVec.ofNat 4 p.val) r)) ∧
  (∀ (p : Fin 8) (r : Reg8),
    decode (BitVec.ofNat 12 (op * 128 + r.code.toNat * 16 + 8 + p.val)) = .error .invalidBitPosition) ∧
  (∀ pos : Fin 16,
    decode (BitVec.ofNat 12 (op * 128 + 6 * 16 + pos.val)) = .error .invalidRegisterSelector) ∧
  (∀ (p : Fin 8) (r : Reg8) (s : State),
    ∃ t, exec (mk (BitVec.ofNat 4 (8 + p.val)) r) s = .next t ∧ t.exStatus = .raised .invalidBitPosition)

/-- The registers an instruction writes (10_state.md R24, 40_dispatch.md R105). -/
def writtenBy (i : Instr) : List Reg8 :=
  match i.tag with
  | .add | .adc | .sub | .sbc | .and | .or | .xor | .cpl | .rlca | .rrca | .rla | .rra => [.a]
  | .addhl => [.h, .l]
  | .inc | .dec | .rlc | .rrc | .rl | .rr | .sla | .srl | .swap | .set | .res => [i.selected]
  | .cp | .scf | .ccf | .bit => []

/-- The registers an instruction reads (10_state.md R24). -/
def readBy (i : Instr) : List Reg8 :=
  match i.tag with
  | .add | .adc | .sub | .sbc | .and | .or | .xor | .cp => [.a, i.selected]
  | .cpl | .rlca | .rrca | .rla | .rra => [.a]
  | .addhl => [i.selected, .h, .l]
  | .inc | .dec | .rlc | .rrc | .rl | .rr | .sla | .srl | .swap | .bit | .set | .res => [i.selected]
  | .scf | .ccf => []

/-- The instructions that read F.C (10_state.md R38). -/
def readsCarry (i : Instr) : Bool :=
  match i.tag with
  | .adc | .sbc | .rl | .rr | .rla | .rra | .ccf => true
  | .add | .sub | .and | .xor | .or | .cp | .inc | .dec | .addhl | .cpl | .scf | .rlca | .rrca | .rlc
  | .rrc | .sla | .srl | .swap | .bit | .res | .set => false

/-- Z is written: all but CPL, SCF, CCF, the A-register rotates, RES and SET (10_state.md section 8). -/
def writesZ (i : Instr) : Bool :=
  match i.tag with
  | .cpl | .scf | .ccf | .rlca | .rrca | .rla | .rra | .res | .set => false
  | .add | .adc | .sub | .sbc | .and | .xor | .or | .cp | .inc | .dec | .addhl | .rlc | .rrc | .rl | .rr
  | .sla | .srl | .swap | .bit => true

/-- N and H are written: all but RES and SET (10_state.md section 8). -/
def writesNH (i : Instr) : Bool :=
  match i.tag with
  | .res | .set => false
  | .add | .adc | .sub | .sbc | .and | .xor | .or | .cp | .inc | .dec | .addhl | .cpl | .scf | .ccf
  | .rlca | .rrca | .rla | .rra | .rlc | .rrc | .rl | .rr | .sla | .srl | .swap | .bit => true

/-- C is written: all but INC, DEC, CPL, BIT, RES and SET (10_state.md section 8). -/
def writesC (i : Instr) : Bool :=
  match i.tag with
  | .inc | .dec | .cpl | .bit | .res | .set => false
  | .add | .adc | .sub | .sbc | .and | .xor | .or | .cp | .addhl | .scf | .ccf | .rlca | .rrca | .rla
  | .rra | .rlc | .rrc | .rl | .rr | .sla | .srl | .swap => true

/-- The pair a register is part of, and whether it is the high byte (10_state.md R29). -/
def pairPlace (r : Reg8) : Pair × Bool :=
  match r with
  | .a => (.af, true)
  | .b => (.bc, true)
  | .c => (.bc, false)
  | .d => (.de, true)
  | .e => (.de, false)
  | .h => (.hl, true)
  | .l => (.hl, false)

/-- `n` times the instruction `i`. -/
def execTimes (n : Nat) (i : Instr) (s : State) : Outcome :=
  match n with
  | 0 => .next s
  | k + 1 =>
    match exec i s with
    | .next t => execTimes k i t
    | .fault r => .fault r
    | .refused r => .refused r

end Sys2Proof.Statements

open Sys2Proof Sys2Proof.Machine Sys2Proof.Statements

/-! ### Arithmetic (41_arith.md) -/

/-- R131: ADD r completes on every register and state, with the exact result, flags and frame; and
its encoding and its selector error as the rule lists them. -/
def Obligations.AddResultFlagsFrame : Prop :=
  (∀ (r : Reg8) (s : State), ∃ t, exec (.add r) s = .next t ∧
    num t .a = (num s .a + num s r) % 256 ∧
    t.rf.f.z = decide ((num s .a + num s r) % 256 = 0) ∧
    t.rf.f.n = false ∧
    t.rf.f.h = decide (num s .a % 16 + num s r % 16 > 15) ∧
    t.rf.f.c = decide (num s .a + num s r > 255) ∧
    Frame s t [.a]) ∧
  EncodedWithRegister 0 .add

/-- R132: ADC r, with the carry before the instruction. -/
def Obligations.AdcResultFlagsFrame : Prop :=
  (∀ (r : Reg8) (s : State), ∃ t, exec (.adc r) s = .next t ∧
    num t .a = (num s .a + num s r + carryIn s) % 256 ∧
    t.rf.f.z = decide ((num s .a + num s r + carryIn s) % 256 = 0) ∧
    t.rf.f.n = false ∧
    t.rf.f.h = decide (num s .a % 16 + num s r % 16 + carryIn s > 15) ∧
    t.rf.f.c = decide (num s .a + num s r + carryIn s > 255) ∧
    Frame s t [.a]) ∧
  EncodedWithRegister 1 .adc

/-- SUB r (41_arith.md section 2). The half-borrow formula is the spec's decision D31. -/
def Obligations.SubResultFlagsFrame : Prop :=
  (∀ (r : Reg8) (s : State), ∃ t, exec (.sub r) s = .next t ∧
    (num t .a : Int) = ((num s .a : Int) - num s r) % 256 ∧
    t.rf.f.z = decide (num s .a = num s r) ∧
    t.rf.f.n = true ∧
    t.rf.f.h = decide (num s .a % 16 < num s r % 16) ∧
    t.rf.f.c = decide (num s r > num s .a) ∧
    Frame s t [.a]) ∧
  EncodedWithRegister 2 .sub

/-- SBC r (41_arith.md section 2). The half-borrow formula is the spec's decision D31. -/
def Obligations.SbcResultFlagsFrame : Prop :=
  (∀ (r : Reg8) (s : State), ∃ t, exec (.sbc r) s = .next t ∧
    (num t .a : Int) = ((num s .a : Int) - num s r - carryIn s) % 256 ∧
    t.rf.f.z = decide (((num s .a : Int) - num s r - carryIn s) % 256 = 0) ∧
    t.rf.f.n = true ∧
    t.rf.f.h = decide (num s .a % 16 < num s r % 16 + carryIn s) ∧
    t.rf.f.c = decide (num s r + carryIn s > num s .a) ∧
    Frame s t [.a]) ∧
  EncodedWithRegister 3 .sbc

/-- CP r (41_arith.md section 2) writes the flags exactly as SUB r does and no register. The
half-borrow formula is the spec's decision D31. -/
def Obligations.CompareWritesOnlyTheFlagsOfSub : Prop :=
  (∀ (r : Reg8) (s : State), ∃ t u, exec (.cp r) s = .next t ∧ exec (.sub r) s = .next u ∧
    t.rf.f = u.rf.f ∧
    t.rf.f.z = decide (num s .a = num s r) ∧
    t.rf.f.n = true ∧
    t.rf.f.h = decide (num s .a % 16 < num s r % 16) ∧
    t.rf.f.c = decide (num s r > num s .a) ∧
    Frame s t []) ∧
  EncodedWithRegister 7 .cp

/-- ADDHL r (41_arith.md section 2). That H becomes 0 and L the byte result is the spec's decision
D10; that the operation follows the source's table is D29. -/
def Obligations.AddhlResultFlagsFrame : Prop :=
  (∀ (r : Reg8) (s : State), ∃ t, exec (.addhl r) s = .next t ∧
    num t .h = 0 ∧
    num t .l = (num s r + num s .h + num s .l) % 256 ∧
    t.rf.f.z = decide ((num s r + num s .h + num s .l) % 256 = 0) ∧
    t.rf.f.n = false ∧
    t.rf.f.h = decide (num s .h % 16 + num s .l % 16 + num s r % 16 > 15) ∧
    t.rf.f.c = decide (num s r + num s .h + num s .l > 255) ∧
    Frame s t [.h, .l]) ∧
  EncodedWithRegister 10 .addhl

/-- R137: INC r, in place; C is unaffected. -/
def Obligations.IncResultFlagsFrame : Prop :=
  (∀ (r : Reg8) (s : State), ∃ t, exec (.inc r) s = .next t ∧
    num t r = (num s r + 1) % 256 ∧
    t.rf.f.z = decide (num s r = 255) ∧
    t.rf.f.n = false ∧
    t.rf.f.h = decide (num s r % 16 + 1 > 15) ∧
    t.rf.f.c = s.rf.f.c ∧
    Frame s t [r]) ∧
  EncodedWithRegister 8 .inc

/-- R138: DEC r, in place; C is unaffected. -/
def Obligations.DecResultFlagsFrame : Prop :=
  (∀ (r : Reg8) (s : State), ∃ t, exec (.dec r) s = .next t ∧
    (num t r : Int) = ((num s r : Int) - 1) % 256 ∧
    t.rf.f.z = decide (num s r = 1) ∧
    t.rf.f.n = true ∧
    t.rf.f.h = decide (num s r % 16 = 0) ∧
    t.rf.f.c = s.rf.f.c ∧
    Frame s t [r]) ∧
  EncodedWithRegister 9 .dec

/-- R140: INC and DEC undo each other on every register and state, and neither changes C. -/
def Obligations.IncAndDecAreInverses : Prop :=
  ∀ (r : Reg8) (s : State),
    (∃ t u, exec (.inc r) s = .next t ∧ exec (.dec r) t = .next u ∧
      u.rf.read r = s.rf.read r ∧ t.rf.f.c = s.rf.f.c ∧ u.rf.f.c = s.rf.f.c) ∧
    (∃ t u, exec (.dec r) s = .next t ∧ exec (.inc r) t = .next u ∧
      u.rf.read r = s.rf.read r ∧ t.rf.f.c = s.rf.f.c ∧ u.rf.f.c = s.rf.f.c)

/-! ### Logic and flag operations (42_logic_flags.md) -/

/-- AND r (42_logic_flags.md section 2). That H is cleared follows the source's table, the spec's
decision D29. -/
def Obligations.AndResultFlagsFrame : Prop :=
  (∀ (r : Reg8) (s : State), ∃ t, exec (.and r) s = .next t ∧
    (∀ i, (t.rf.read .a).getLsbD i = ((s.rf.read .a).getLsbD i && (s.rf.read r).getLsbD i)) ∧
    t.rf.f = { z := decide (num t .a = 0), n := false, h := false, c := false } ∧
    Frame s t [.a]) ∧
  EncodedWithRegister 4 .and

/-- R162 and R163: OR r and XOR r. -/
def Obligations.OrXorResultFlagsFrame : Prop :=
  (∀ (r : Reg8) (s : State), ∃ t, exec (.or r) s = .next t ∧
    (∀ i, (t.rf.read .a).getLsbD i = ((s.rf.read .a).getLsbD i || (s.rf.read r).getLsbD i)) ∧
    t.rf.f = { z := decide (num t .a = 0), n := false, h := false, c := false } ∧
    Frame s t [.a]) ∧
  EncodedWithRegister 6 .or ∧
  (∀ (r : Reg8) (s : State), ∃ t, exec (.xor r) s = .next t ∧
    (∀ i, (t.rf.read .a).getLsbD i = ((s.rf.read .a).getLsbD i != (s.rf.read r).getLsbD i)) ∧
    t.rf.f = { z := decide (num t .a = 0), n := false, h := false, c := false } ∧
    Frame s t [.a]) ∧
  EncodedWithRegister 5 .xor

/-- CPL (42_logic_flags.md section 2): Z and C are unaffected. That `sel` = 6 is an error for it is
the spec's decision D6. -/
def Obligations.CplResultFlagsFrame : Prop :=
  (∀ s : State, ∃ t, exec .cpl s = .next t ∧
    num t .a = 255 - num s .a ∧
    t.rf.f = { z := s.rf.f.z, n := true, h := true, c := s.rf.f.c } ∧
    Frame s t [.a]) ∧
  EncodedImplicit 11 .cpl

/-- R165 and R166: SCF sets and CCF inverts C, both clear N and H, keep Z and write no register. -/
def Obligations.CarryControlsWriteOnlyFlags : Prop :=
  (∀ s : State, ∃ t, exec .scf s = .next t ∧
    t.rf.f = { z := s.rf.f.z, n := false, h := false, c := true } ∧ Frame s t []) ∧
  EncodedImplicit 12 .scf ∧
  (∀ s : State, ∃ t, exec .ccf s = .next t ∧
    t.rf.f = { z := s.rf.f.z, n := false, h := false, c := !s.rf.f.c } ∧ Frame s t []) ∧
  EncodedImplicit 13 .ccf

/-! ### Rotates, shifts and swap (43_rotate_shift.md) -/

/-- RLCA and RRCA (43_rotate_shift.md section 2): A rotates by one position, C gets the bit rotated
out, Z is unaffected. That the count is 1 is the spec's decision D11, and Z is D29. -/
def Obligations.RlcaRrcaResultFlagsFrame : Prop :=
  (∀ s : State, ∃ t, exec .rlca s = .next t ∧
    num t .a = num s .a * 2 % 256 + num s .a / 128 ∧
    t.rf.f = { z := s.rf.f.z, n := false, h := false, c := decide (num s .a ≥ 128) } ∧
    Frame s t [.a]) ∧
  EncodedImplicit 14 .rlca ∧
  (∀ s : State, ∃ t, exec .rrca s = .next t ∧
    num t .a = num s .a / 2 + num s .a % 2 * 128 ∧
    t.rf.f = { z := s.rf.f.z, n := false, h := false, c := decide (num s .a % 2 = 1) } ∧
    Frame s t [.a]) ∧
  EncodedImplicit 15 .rrca

/-- RLA and RRA (43_rotate_shift.md section 2): through carry, Z unaffected. The incoming bit is the
carry before the instruction, the spec's decision D28; Z is D29. -/
def Obligations.RlaRraResultFlagsFrame : Prop :=
  (∀ s : State, ∃ t, exec .rla s = .next t ∧
    num t .a = num s .a * 2 % 256 + carryIn s ∧
    t.rf.f = { z := s.rf.f.z, n := false, h := false, c := decide (num s .a ≥ 128) } ∧
    Frame s t [.a]) ∧
  EncodedImplicit 16 .rla ∧
  (∀ s : State, ∃ t, exec .rra s = .next t ∧
    num t .a = num s .a / 2 + carryIn s * 128 ∧
    t.rf.f = { z := s.rf.f.z, n := false, h := false, c := decide (num s .a % 2 = 1) } ∧
    Frame s t [.a]) ∧
  EncodedImplicit 17 .rra

/-- RLC r and RRC r (43_rotate_shift.md section 3), in place. That the count is 1 is the spec's
decision D11. -/
def Obligations.RlcRrcResultFlagsFrame : Prop :=
  (∀ (r : Reg8) (s : State), ∃ t, exec (.rlc r) s = .next t ∧
    num t r = num s r * 2 % 256 + num s r / 128 ∧
    t.rf.f = { z := decide (num s r = 0), n := false, h := false, c := decide (num s r ≥ 128) } ∧
    Frame s t [r]) ∧
  EncodedWithRegister 18 .rlc ∧
  (∀ (r : Reg8) (s : State), ∃ t, exec (.rrc r) s = .next t ∧
    num t r = num s r / 2 + num s r % 2 * 128 ∧
    t.rf.f = { z := decide (num s r = 0), n := false, h := false, c := decide (num s r % 2 = 1) } ∧
    Frame s t [r]) ∧
  EncodedWithRegister 19 .rrc

/-- RL r and RR r (43_rotate_shift.md section 3), in place through carry. The incoming bit is the
carry before the instruction, the spec's decision D28. -/
def Obligations.RlRrResultFlagsFrame : Prop :=
  (∀ (r : Reg8) (s : State), ∃ t, exec (.rl r) s = .next t ∧
    num t r = num s r * 2 % 256 + carryIn s ∧
    t.rf.f = { z := decide (num t r = 0), n := false, h := false, c := decide (num s r ≥ 128) } ∧
    Frame s t [r]) ∧
  EncodedWithRegister 20 .rl ∧
  (∀ (r : Reg8) (s : State), ∃ t, exec (.rr r) s = .next t ∧
    num t r = num s r / 2 + carryIn s * 128 ∧
    t.rf.f = { z := decide (num t r = 0), n := false, h := false, c := decide (num s r % 2 = 1) } ∧
    Frame s t [r]) ∧
  EncodedWithRegister 21 .rr

/-- R190 and R191: SLA r and SRL r, in place. -/
def Obligations.SlaSrlResultFlagsFrame : Prop :=
  (∀ (r : Reg8) (s : State), ∃ t, exec (.sla r) s = .next t ∧
    num t r = num s r * 2 % 256 ∧
    t.rf.f = { z := decide (num t r = 0), n := false, h := false, c := decide (num s r ≥ 128) } ∧
    Frame s t [r]) ∧
  EncodedWithRegister 22 .sla ∧
  (∀ (r : Reg8) (s : State), ∃ t, exec (.srl r) s = .next t ∧
    num t r = num s r / 2 ∧
    t.rf.f = { z := decide (num t r = 0), n := false, h := false, c := decide (num s r % 2 = 1) } ∧
    Frame s t [r]) ∧
  EncodedWithRegister 23 .srl

/-- R192: SWAP r exchanges the nibbles, in place, and clears C. -/
def Obligations.SwapResultFlagsFrame : Prop :=
  (∀ (r : Reg8) (s : State), ∃ t, exec (.swap r) s = .next t ∧
    num t r = num s r % 16 * 16 + num s r / 16 ∧
    t.rf.f = { z := decide (num s r = 0), n := false, h := false, c := false } ∧
    Frame s t [r]) ∧
  EncodedWithRegister 24 .swap

/-- R181 with the rotates of A written as register rotates: on A, the register variant and the
A-register variant agree in every register and in N, H and C, and differ only in Z. -/
def Obligations.AccumulatorRotatesDifferOnlyInZ : Prop :=
  ∀ (regForm accForm : Instr),
    (regForm, accForm) ∈
      [(Instr.rlc .a, Instr.rlca), (.rrc .a, .rrca), (.rl .a, .rla), (.rr .a, .rra)] →
    ∀ s : State, ∃ t u, exec regForm s = .next t ∧ exec accForm s = .next u ∧
      (∀ x, t.rf.read x = u.rf.read x) ∧
      t.rf.f.n = u.rf.f.n ∧ t.rf.f.h = u.rf.f.h ∧ t.rf.f.c = u.rf.f.c ∧
      t.rf.f.z = decide (num t .a = 0) ∧ u.rf.f.z = s.rf.f.z

/-- The rotates not through carry for every rotate count 1 to 7 (43_rotate_shift.md sections 1 and 5):
each bit of the result, the carry, and `ROT_N` = 4 against SWAP. The count of this hardware is the
spec's decision D11; this statement does not rest on it. -/
def Obligations.RotatesHoldForEveryCount : Prop :=
  ∀ (x : Byte) (f : Flags) (n : Nat), 1 ≤ n → n ≤ 7 →
    (∀ i, i < 8 → (rlcEngine n x f).res.getLsbD i = x.getLsbD ((i + 8 - n) % 8)) ∧
    (rlcEngine n x f).flags.c = x.getLsbD (8 - n) ∧
    (∀ i, i < 8 → (rrcEngine n x f).res.getLsbD i = x.getLsbD ((i + n) % 8)) ∧
    (rrcEngine n x f).flags.c = x.getLsbD (n - 1) ∧
    (rlcaEngine n x f).res = (rlcEngine n x f).res ∧
    (rlcaEngine n x f).flags = { (rlcEngine n x f).flags with z := f.z } ∧
    (rrcaEngine n x f).res = (rrcEngine n x f).res ∧
    (rrcaEngine n x f).flags = { (rrcEngine n x f).flags with z := f.z } ∧
    (n = 4 → (rlcEngine n x f).res = (swapEngine x f).res ∧ (rrcEngine n x f).res = (swapEngine x f).res)

/-! ### Bit operations (44_bit.md) -/

/-- BIT p, r (44_bit.md section 2) writes Z = NOT bit p, N = 0, H = 1, and nothing else. What the term
of a position of 8 to 15, which no word decodes to, does is the model's own (DEDUCED, log entry 6). -/
def Obligations.BitTestWritesOnlyFlags : Prop :=
  (∀ (p : Fin 8) (r : Reg8) (s : State), ∃ t, exec (.bit (BitVec.ofNat 4 p.val) r) s = .next t ∧
    t.rf.f = { z := !(s.rf.read r).getLsbD p.val, n := false, h := true, c := s.rf.f.c } ∧
    Frame s t []) ∧
  EncodedWithPosition 25 .bit

/-- RES p, r clears and SET p, r sets bit p of r and nothing else, no flag among it (44_bit.md section
2). What the terms of a position of 8 to 15, which no word decodes to, do is the model's own (DEDUCED,
log entry 6). -/
def Obligations.ResSetWriteOneBit : Prop :=
  (∀ (p : Fin 8) (r : Reg8) (s : State), ∃ t, exec (.res (BitVec.ofNat 4 p.val) r) s = .next t ∧
    (∀ i, (t.rf.read r).getLsbD i = (decide (i ≠ p.val) && (s.rf.read r).getLsbD i)) ∧
    t.rf.f = s.rf.f ∧ Frame s t [r]) ∧
  EncodedWithPosition 26 .res ∧
  (∀ (p : Fin 8) (r : Reg8) (s : State), ∃ t, exec (.set (BitVec.ofNat 4 p.val) r) s = .next t ∧
    (∀ i, (t.rf.read r).getLsbD i = (decide (i = p.val) || (s.rf.read r).getLsbD i)) ∧
    t.rf.f = s.rf.f ∧ Frame s t [r]) ∧
  EncodedWithPosition 27 .set

/-- R214: the laws of BIT, RES and SET, for every register, state and position. -/
def Obligations.BitOperationLaws : Prop :=
  ∀ (p : Fin 8) (r : Reg8) (s : State),
    let pos := BitVec.ofNat 4 p.val
    (∃ t u, exec (.set pos r) s = .next t ∧ exec (.res pos r) t = .next u ∧
      (u.rf.read r).getLsbD p.val = false ∧ u.rf.read r = s.rf.read r &&& ~~~(1#8 <<< p.val)) ∧
    (∃ t u, exec (.res pos r) s = .next t ∧ exec (.set pos r) t = .next u ∧
      u.rf.read r = s.rf.read r ||| (1#8 <<< p.val)) ∧
    (∃ t u, exec (.set pos r) s = .next t ∧ exec (.set pos r) t = .next u ∧ u = t) ∧
    (∃ t u, exec (.res pos r) s = .next t ∧ exec (.res pos r) t = .next u ∧ u = t) ∧
    (∀ q : Fin 8, q ≠ p → ∃ t u v w,
      exec (.set pos r) s = .next t ∧ exec (.res (BitVec.ofNat 4 q.val) r) t = .next u ∧
      exec (.res (BitVec.ofNat 4 q.val) r) s = .next v ∧ exec (.set pos r) v = .next w ∧ u = w) ∧
    (∃ t u, exec (.set pos r) s = .next t ∧ exec (.bit pos r) t = .next u ∧ u.rf.f.z = false) ∧
    (∃ t u, exec (.res pos r) s = .next t ∧ exec (.bit pos r) t = .next u ∧ u.rf.f.z = true)

/-- Corner cases of several rules: two CPLs restore A, two CCFs restore C, SCF then CCF leaves C clear,
two SWAPs restore the register, nine RLAs restore A and C (42_logic_flags.md section 2,
43_rotate_shift.md sections 2 and 4). -/
def Obligations.RepeatedOperationsRestore : Prop :=
  ∀ s : State,
    (∃ t, execTimes 2 .cpl s = .next t ∧ t.rf.a = s.rf.a ∧ t.rf.f.n = true ∧ t.rf.f.h = true) ∧
    (∃ t, execTimes 2 .ccf s = .next t ∧ t.rf.f.c = s.rf.f.c) ∧
    (∃ t u, exec .scf s = .next t ∧ exec .ccf t = .next u ∧ u.rf.f.c = false) ∧
    (∀ r : Reg8, ∃ t, execTimes 2 (.swap r) s = .next t ∧ t.rf.read r = s.rf.read r) ∧
    (∃ t, execTimes 9 .rla s = .next t ∧ t.rf.a = s.rf.a ∧ t.rf.f.c = s.rf.f.c)

/-! ### Flag codec and register pairs (10_state.md) -/

/-- R26 and R27: which bit of the flag byte is which flag, and the four low bits. -/
def Obligations.FlagByteBits : Prop :=
  (∀ f : Flags,
    (encodeFlags f).toNat =
      (if f.z then 128 else 0) + (if f.n then 64 else 0) + (if f.h then 32 else 0) + (if f.c then 16 else 0)) ∧
  (∀ b : Byte,
    decodeFlags b =
      { z := decide (b.toNat / 128 % 2 = 1), n := decide (b.toNat / 64 % 2 = 1)
        h := decide (b.toNat / 32 % 2 = 1), c := decide (b.toNat / 16 % 2 = 1) })

/-- The codec's two laws (10_state.md section 3). That F is stored as four bits is the spec's decision
D20. -/
def Obligations.FlagCodecRoundTrips : Prop :=
  (∀ f : Flags, decodeFlags (encodeFlags f) = f) ∧
  (∀ x : Byte, encodeFlags (decodeFlags x) = x &&& 0xF0#8)

/-- R30: `getPair` puts the first register high and the second, or the flag byte, low. -/
def Obligations.GetPairComposesHighAndLow : Prop :=
  ∀ rf : RegFile,
    (rf.getPair .af).toNat = rf.a.toNat * 256 + (encodeFlags rf.f).toNat ∧
    (rf.getPair .bc).toNat = rf.b.toNat * 256 + rf.c.toNat ∧
    (rf.getPair .de).toNat = rf.d.toNat * 256 + rf.e.toNat ∧
    (rf.getPair .hl).toNat = rf.h.toNat * 256 + rf.l.toNat ∧
    (rf.getPair .af).toNat % 16 = 0

/-- R31: `setPair` splits every 16-bit value into both halves of its pair and writes nothing else; for
AF bits 3:0 are discarded. -/
def Obligations.SetPairWritesBothHalves : Prop :=
  ∀ (rf : RegFile) (v : PairWord),
    let high := BitVec.ofNat 8 (v.toNat / 256)
    let low := BitVec.ofNat 8 (v.toNat % 256)
    rf.setPair .af v = { rf with
      a := high
      f := { z := low.getLsbD 7, n := low.getLsbD 6, h := low.getLsbD 5, c := low.getLsbD 4 } } ∧
    rf.setPair .bc v = { rf with b := high, c := low } ∧
    rf.setPair .de v = { rf with d := high, e := low } ∧
    rf.setPair .hl v = { rf with h := high, l := low }

/-- R33: the pair views round-trip, AF with its four low bits masked. -/
def Obligations.PairsRoundTrip : Prop :=
  ∀ (rf : RegFile) (v : PairWord),
    (∀ p : Pair, p ≠ .af → (rf.setPair p v).getPair p = v) ∧
    (rf.setPair .af v).getPair .af = v &&& 0xFFF0#16

/-- R53: a pair reads as its two registers (AF as A and the flag byte), and writing an 8-bit register
changes only its own byte of the pair that contains it. -/
def Obligations.RegisterWriteChangesOnlyItsByteOfItsPair : Prop :=
  ∀ (rf : RegFile) (r : Reg8) (v : Byte),
    (rf.read r).toNat =
      (if (pairPlace r).2 then (rf.getPair (pairPlace r).1).toNat / 256
        else (rf.getPair (pairPlace r).1).toNat % 256) ∧
    (rf.getPair .af).toNat % 256 = (encodeFlags rf.f).toNat ∧
    ((rf.write r v).getPair (pairPlace r).1).toNat =
      (if (pairPlace r).2 then v.toNat * 256 + (rf.getPair (pairPlace r).1).toNat % 256
        else (rf.getPair (pairPlace r).1).toNat / 256 * 256 + v.toNat) ∧
    (∀ p : Pair, p ≠ (pairPlace r).1 → (rf.write r v).getPair p = rf.getPair p)

/-- The state outputs (40_dispatch.md section 1; the port list is the spec's decision D17). -/
def Obligations.OutputsShowTheState : Prop :=
  ∀ s : State,
    (s.outputs.aO, s.outputs.bO, s.outputs.cO, s.outputs.dO) = (s.rf.a, s.rf.b, s.rf.c, s.rf.d) ∧
    (s.outputs.eO, s.outputs.hO, s.outputs.lO) = (s.rf.e, s.rf.h, s.rf.l) ∧
    s.outputs.fO.toNat =
      (if s.rf.f.z then 128 else 0) + (if s.rf.f.n then 64 else 0) + (if s.rf.f.h then 32 else 0) +
        (if s.rf.f.c then 16 else 0) ∧
    s.outputs.afO.toNat = s.rf.a.toNat * 256 + s.outputs.fO.toNat ∧
    s.outputs.bcO.toNat = s.rf.b.toNat * 256 + s.rf.c.toNat ∧
    s.outputs.deO.toNat = s.rf.d.toNat * 256 + s.rf.e.toNat ∧
    s.outputs.hlO.toNat = s.rf.h.toNat * 256 + s.rf.l.toNat

/-! ### Encoding (30_encoding.md; the layout and the codes are the spec's decisions D2 to D7) -/

/-- The codes of registers (6 names none), pairs and statuses, and each table read backwards
(30_encoding.md section 2, 40_dispatch.md section 1, 60_exceptions.md section 1; decisions D4, D26 and
D8). -/
def Obligations.SelectorPairAndStatusCodes : Prop :=
  [Reg8.b, .c, .d, .e, .h, .l, .a].map Reg8.code = [0, 1, 2, 3, 4, 5, 7] ∧
  Reg8.ofCode 6 = none ∧ (∀ r : Reg8, Reg8.ofCode r.code = some r) ∧
  [Pair.bc, .de, .hl, .af].map Pair.code = [0, 1, 2, 3] ∧ (∀ p : Pair, Pair.ofCode p.code = p) ∧
  [ExStatus.ok, .raised .invalidOperation, .raised .invalidRegisterSelector,
    .raised .invalidBitPosition].map ExStatus.code = [0, 1, 2, 3] ∧
  (∀ st : ExStatus, ExStatus.ofCode st.code = st)

/-- Words written out bit by bit decode to the instructions they stand for, one of each operand class. -/
def Obligations.WrittenOutWordsDecode : Prop :=
  decode 0b000000010000#12 = .ok (.add .c) ∧
  decode 0b010101010000#12 = .ok (.addhl .l) ∧
  decode 0b010001000000#12 = .ok (.inc .h) ∧
  decode 0b101101000000#12 = .ok (.sla .h) ∧
  decode 0b010111110000#12 = .ok .cpl ∧
  decode 0b100001110000#12 = .ok .rla ∧
  decode 0b110010010011#12 = .ok (.bit 3 .c) ∧
  decode 0b110110000111#12 = .ok (.set 7 .b) ∧
  decode 0b110101110000#12 = .ok (.res 0 .a) ∧
  decode 0b000001100000#12 = .error .invalidRegisterSelector

/-- Decode of encode is the instruction, for every well-formed instruction. -/
def Obligations.DecodeEncodeIsIdentity : Prop :=
  ∀ i : Instr, i.wellFormed = true → decode (encode i) = .ok i

/-- What the decoder accepts is well-formed, and its canonical word has the word's operation code, the
word's `sel` where the operation uses it, and the word's `pos` where it uses that: the decoder drops
ignored fields only. -/
def Obligations.DecodeDropsOnlyIgnoredFields : Prop :=
  ∀ (w : InsnWord) (i : Instr), decode w = .ok i →
    i.wellFormed = true ∧
    (encode i).toNat / 128 = w.toNat / 128 ∧
    (¬(11 ≤ w.toNat / 128 ∧ w.toNat / 128 ≤ 17) → (encode i).toNat / 16 % 8 = w.toNat / 16 % 8) ∧
    (25 ≤ w.toNat / 128 → (encode i).toNat % 16 = w.toNat % 16)

/-- The counts of illegal and legal words (30_encoding.md section 4, which the spec marks as derived). -/
def Obligations.WordCounts : Prop :=
  let count (p : Except ExError Instr → Bool) : Nat :=
    ((List.range 4096).filter fun n => p (decode (BitVec.ofNat 12 n))).length
  count (fun d => d == .error .invalidOperation) = 512 ∧
  count (fun d => d == .error .invalidRegisterSelector) = 448 ∧
  count (fun d => d == .error .invalidBitPosition) = 168 ∧
  count (fun d => d.isOk) = 2968

/-! ### Errors (60_exceptions.md) -/

/-- R231: an operation code of 28 to 31, and nothing else, is InvalidOperation, whatever `sel` and `pos`
are; the Execute reports status 1 and changes nothing. -/
def Obligations.UnassignedCodesAreInvalidOperation : Prop :=
  (ExStatus.raised .invalidOperation).code = 1 ∧
  ∀ w : InsnWord, (decode w = .error .invalidOperation ↔ 28 ≤ w.toNat / 128) ∧
    (28 ≤ w.toNat / 128 → ∀ s : State,
      executeWord w s = .next { s with exStatus := .raised .invalidOperation })

/-- An assigned operation with `sel` = 6, and nothing else, is InvalidRegisterSelector, status 2,
nothing changed (60_exceptions.md section 1). That the IMPLICIT operations check `sel` is the spec's
decision D6. -/
def Obligations.SelectorSixIsInvalidRegisterSelector : Prop :=
  (ExStatus.raised .invalidRegisterSelector).code = 2 ∧
  ∀ w : InsnWord,
    (decode w = .error .invalidRegisterSelector ↔ w.toNat / 128 ≤ 27 ∧ w.toNat / 16 % 8 = 6) ∧
    (w.toNat / 128 ≤ 27 → w.toNat / 16 % 8 = 6 → ∀ s : State,
      executeWord w s = .next { s with exStatus := .raised .invalidRegisterSelector })

/-- R233: BIT, RES or SET with a `pos` of 8 to 15 and a `sel` other than 6, and nothing else, is
InvalidBitPosition, status 3. -/
def Obligations.LargePositionsAreInvalidBitPosition : Prop :=
  (ExStatus.raised .invalidBitPosition).code = 3 ∧
  ∀ w : InsnWord,
    (decode w = .error .invalidBitPosition ↔
      25 ≤ w.toNat / 128 ∧ w.toNat / 128 ≤ 27 ∧ w.toNat / 16 % 8 ≠ 6 ∧ 8 ≤ w.toNat % 16) ∧
    (25 ≤ w.toNat / 128 → w.toNat / 128 ≤ 27 → w.toNat / 16 % 8 ≠ 6 → 8 ≤ w.toNat % 16 → ∀ s : State,
      ∃ t, executeWord w s = .next t ∧ t.exStatus = .raised .invalidBitPosition)

/-! ### Steps and transactions (40_dispatch.md; the queue of what the host presents is log entry 2) -/

/-- A step whose ports request an Execute of a word that decodes to `i` is `exec i`, from the state
with the queue moved on. -/
def Obligations.StepRunsTheDecodedInstruction : Prop :=
  ∀ (s : State) (p : PortInputs) (rest : List PortInputs) (i : Instr),
    s.inputs = p :: rest → p.exEn = true → p.wrEn = false → decode p.exInsn = .ok i →
    step s = exec i { s with inputs := rest }

/-- A table word presented by `withFetchWord` runs in the very next step (log entries 2 and 10). -/
def Obligations.PresentedTableWordRunsNext : Prop :=
  ∀ (s : State) (nbits w : Nat) (i : Instr),
    decodeTableWord nbits w = some i → step (s.withFetchWord nbits w) = exec i s

/-- A step that executes a word the decoder rejects reports the error, changes no register and no flag,
and the machine goes on (60_exceptions.md section 1; for InvalidBitPosition the spec's decision D9; an
error as a next state is log entry 5). -/
def Obligations.ErrorStepChangesNoRegisterOrFlag : Prop :=
  ∀ (s : State) (p : PortInputs) (rest : List PortInputs) (e : ExError),
    s.inputs = p :: rest → p.exEn = true → p.wrEn = false → decode p.exInsn = .error e →
    step s = .next { s with inputs := rest, exStatus := .raised e }

/-- A step whose ports request SetPair writes the pair that `wr_pair` names (0 BC, 1 DE, 2 HL, 3 AF: the
spec's decision D26), completes for every value, and changes nothing else of the register file. -/
def Obligations.SetPairStepWritesTheNamedPair : Prop :=
  ∀ (s : State) (p : PortInputs) (rest : List PortInputs),
    s.inputs = p :: rest → p.exEn = false → p.wrEn = true →
    ∃ t, step s = .next t ∧ t.inputs = rest ∧
      (p.wrPair.toNat = 0 → t.rf = { s.rf with b := hi p.wrData, c := lo p.wrData }) ∧
      (p.wrPair.toNat = 1 → t.rf = { s.rf with d := hi p.wrData, e := lo p.wrData }) ∧
      (p.wrPair.toNat = 2 → t.rf = { s.rf with h := hi p.wrData, l := lo p.wrData }) ∧
      (p.wrPair.toNat = 3 → t.rf = { s.rf with a := hi p.wrData, f := decodeFlags (lo p.wrData) })

/-- A step with neither enable asserted, an exhausted queue among them, completes and changes no
register and no flag (40_dispatch.md section 1). -/
def Obligations.IdleStepChangesNoRegisterOrFlag : Prop :=
  ∀ s : State, (∀ p ∈ s.inputs.head?, p.exEn = false ∧ p.wrEn = false) →
    ∃ t, step s = .next t ∧ t.rf = s.rf ∧ t.inputs = s.inputs.tail

/-- A step stops only where the host asserts both enables, and there it is refused by name
(93_implementation_defined.md U9; the spec's decision D18; log entry 7). -/
def Obligations.StepStopsOnlyOnBothEnables : Prop :=
  ∀ s : State,
    (∀ f, step s ≠ .fault f) ∧
    (∀ r, step s = .refused r ↔
      r = .simultaneousRequests ∧ ∃ p rest, s.inputs = p :: rest ∧ p.exEn = true ∧ p.wrEn = true)

/-- Every instruction term completes from every state, with the queue and the counter of free values
untouched: no instruction halts the block (40_dispatch.md section 3). A term with a bit position
outside 0 to 7, which no word decodes to, raises InvalidBitPosition and changes no register and no
flag (the spec's decision D9; log entry 6). -/
def Obligations.EveryInstructionCompletes : Prop :=
  ∀ (i : Instr) (s : State), ∃ t, exec i s = .next t ∧ t.inputs = s.inputs ∧ t.freeIdx = s.freeIdx ∧
    t.exStatus = (if i.wellFormed then .ok else .raised .invalidBitPosition) ∧
    (i.wellFormed = false → t.rf = s.rf)

/-- An instance comes into being in the INIT_STATE it is given, with nothing presented, and the host's
contract holds there; `State.reset` is that for the model's opaque INIT_STATE
(70_reset_and_hazards.md section 1; the spec's decision D15; log entries 1 and 2). -/
def Obligations.ResetIsInitStateUnderTheContract : Prop :=
  (∀ (init : RegFile) (ps : List PortInputs),
    (State.initial init ps).rf = init ∧ (State.initial init ps).inputs = ps) ∧
  State.reset = State.initial initState [] ∧ State.hostKeepsContract State.reset

/-- INVARIANT: a step keeps the host's contract (never both enables in one step). -/
def Obligations.StepKeepsHostContract : Prop :=
  ∀ s t : State, s.hostKeepsContract → step s = .next t → t.hostKeepsContract

/-- HEADLINE: under the host's contract the block never stalls, faults or refuses: any number of steps
from any state completes, and it takes one step for each transaction presented
(40_dispatch.md section 3). -/
def Obligations.ContractRunsAreSafe : Prop :=
  ∀ (k : Nat) (s : State), s.hostKeepsContract →
    ∃ t, Sys2Proof.core.run k s = .next t ∧ t.inputs = s.inputs.drop k ∧ t.hostKeepsContract

/-- After SetPair of AF, BC, DE and HL in any order, the whole architectural state is what the
four values say, whatever it was before: it does not depend on INIT_STATE (70_reset_and_hazards.md
section 2; the spec's decision D16). -/
def Obligations.BootDeterminesTheRegisterFile : Prop :=
  ∀ (order : List Pair) (v : Pair → PairWord) (s : State) (rest : List PortInputs),
    order.Perm [.af, .bc, .de, .hl] →
    s.inputs = order.map (fun p => PortInputs.setPair p (v p)) ++ rest →
    ∃ t, Sys2Proof.core.run 4 s = .next t ∧ t.inputs = rest ∧
      t.rf =
        { a := hi (v .af), b := hi (v .bc), c := lo (v .bc), d := hi (v .de), e := lo (v .de)
          h := hi (v .hl), l := lo (v .hl), f := decodeFlags (lo (v .af)) }

/-- The status output is not state: no step depends on it (10_state.md section 5; the spec's decision
D19; log entry 3). -/
def Obligations.StatusOutputIsNeverRead : Prop :=
  ∀ (s : State) (st : ExStatus), step { s with exStatus := st } = step s

/-- A step sees no effect of what the host presents later (20_memory.md section 6). -/
def Obligations.LaterInputsHaveNoEffect : Prop :=
  ∀ (s t : State) (p : PortInputs) (rest rest' : List PortInputs),
    s.inputs = p :: rest → step s = .next t →
    step { s with inputs := p :: rest' } = .next { t with inputs := rest' }

/-! ### Whole-machine rules over all instructions -/

/-- No instruction writes a register outside its commit target, with the table of commit targets
written out (40_dispatch.md section 2; the A-register rotates and SCF, CCF are the spec's decision
D12). -/
def Obligations.NoWriteOutsideTheCommitTarget : Prop :=
  ∀ (i : Instr) (s t : State), exec i s = .next t →
    ∀ x, x ∉ writtenBy i → t.rf.read x = s.rf.read x

/-- A flag an instruction leaves unaffected keeps its value, by the flag summary (10_state.md sections 2
and 8; the reading of "unaffected" is the spec's decision D27). -/
def Obligations.UnaffectedFlagsKeepTheirValues : Prop :=
  ∀ (i : Instr) (s t : State), exec i s = .next t →
    (writesZ i = false → t.rf.f.z = s.rf.f.z) ∧
    (writesNH i = false → t.rf.f.n = s.rf.f.n ∧ t.rf.f.h = s.rf.f.h) ∧
    (writesC i = false → t.rf.f.c = s.rf.f.c)

/-- Non-interference: two states that agree on the registers an instruction reads, and on F.C if it
reads F.C, give the same values to every register and flag it writes. So Z, N and H are read by no
instruction (10_state.md sections 1 and 7). -/
def Obligations.ResultsDependOnlyOnWhatIsRead : Prop :=
  ∀ (i : Instr) (s s' t t' : State), i.wellFormed = true →
    (∀ x ∈ readBy i, s.rf.read x = s'.rf.read x) →
    (readsCarry i = true → s.rf.f.c = s'.rf.f.c) →
    exec i s = .next t → exec i s' = .next t' →
    (∀ x ∈ writtenBy i, t.rf.read x = t'.rf.read x) ∧
    (writesZ i = true → t.rf.f.z = t'.rf.f.z) ∧
    (writesNH i = true → t.rf.f.n = t'.rf.f.n ∧ t.rf.f.h = t'.rf.f.h) ∧
    (writesC i = true → t.rf.f.c = t'.rf.f.c)

/-- R38: F.C is read by ADC, SBC, RL, RR, RLA, RRA and CCF and by no other instruction; Z, N and H are
read by none; the host reads all four through the flag-byte output and AF. "Read" means that changing
the flag alone can change a register, or a flag the instruction writes. -/
def Obligations.CarryIsReadByExactlyItsReaders : Prop :=
  (∀ i : Instr, i.wellFormed = true →
    (readsCarry i = true ↔ ∃ (s t t' : State) (c : Bool),
      exec i s = .next t ∧
      exec i { s with rf := s.rf.writeFlags { s.rf.f with c := c } } = .next t' ∧
      ((∃ x, t.rf.read x ≠ t'.rf.read x) ∨ t.rf.f.z ≠ t'.rf.f.z ∨ t.rf.f.n ≠ t'.rf.f.n ∨
        t.rf.f.h ≠ t'.rf.f.h ∨ (writesC i = true ∧ t.rf.f.c ≠ t'.rf.f.c)))) ∧
  (∀ (i : Instr) (s t t' : State) (z n h : Bool), i.wellFormed = true →
    exec i s = .next t →
    exec i { s with rf := s.rf.writeFlags { z := z, n := n, h := h, c := s.rf.f.c } } = .next t' →
    (∀ x, t.rf.read x = t'.rf.read x) ∧ t.rf.f.c = t'.rf.f.c ∧
    (writesZ i = true → t.rf.f.z = t'.rf.f.z) ∧
    (writesNH i = true → t.rf.f.n = t'.rf.f.n ∧ t.rf.f.h = t'.rf.f.h)) ∧
  (∀ s : State, decodeFlags s.outputs.fO = s.rf.f ∧ decodeFlags (lo s.outputs.afO) = s.rf.f)
end

