-- ==== Sys2Proof/Laws/Decode.lean ====
section
/-! SUPPORT. The fields of a word that was put together, and the code tables read both ways. -/

namespace Sys2Proof

section Fields
variable (op : BitVec 5) (sel : BitVec 3) (pos : BitVec 4)

@[simp] theorem opField_wordOf : opField (wordOf op sel pos) = op := by
  unfold opField wordOf
  ext i h
  interval_cases i <;> simp [BitVec.getLsbD_of_ge, BitVec.getLsbD_eq_getElem]

@[simp] theorem selField_wordOf : selField (wordOf op sel pos) = sel := by
  unfold selField wordOf
  ext i h
  interval_cases i <;> simp [BitVec.getLsbD_of_ge, BitVec.getLsbD_eq_getElem]

@[simp] theorem posField_wordOf : posField (wordOf op sel pos) = pos := by
  unfold posField wordOf
  ext i h
  interval_cases i <;> simp [BitVec.getLsbD_eq_getElem]

/-- A word is its three fields. -/
theorem wordOf_fields (w : InsnWord) : wordOf (opField w) (selField w) (posField w) = w := by
  unfold opField selField posField wordOf
  ext i h
  interval_cases i <;> simp [BitVec.getLsbD_eq_getElem]

end Fields

@[simp] theorem OpTag.ofCode_code (t : OpTag) : OpTag.ofCode t.code = some t := by cases t <;> rfl

@[simp] theorem Reg8.ofCode_code (r : Reg8) : Reg8.ofCode r.code = some r := by cases r <;> rfl

@[simp] theorem Pair.ofCode_code (p : Pair) : Pair.ofCode p.code = p := by cases p <;> rfl

theorem OpTag.code_of_ofCode {op : BitVec 5} {t : OpTag} (h : OpTag.ofCode op = some t) : t.code = op := by
  revert t h; revert op; decide

theorem Reg8.code_of_ofCode {sel : BitVec 3} {r : Reg8} (h : Reg8.ofCode sel = some r) : r.code = sel := by
  revert r h; revert sel; decide

theorem OpTag.ofCode_none_iff (op : BitVec 5) : OpTag.ofCode op = none ↔ 28 ≤ op.toNat := by
  revert op; decide

theorem Reg8.ofCode_none_iff (sel : BitVec 3) : Reg8.ofCode sel = none ↔ sel.toNat = 6 := by
  revert sel; decide

/-- What the decoder does, in the priority order of R234. -/
theorem decode_cases (w : InsnWord) :
    (OpTag.ofCode (opField w) = none ∧ decode w = .error .invalidOperation) ∨
    (∃ t, OpTag.ofCode (opField w) = some t ∧ Reg8.ofCode (selField w) = none ∧
      decode w = .error .invalidRegisterSelector) ∨
    (∃ t r, OpTag.ofCode (opField w) = some t ∧ Reg8.ofCode (selField w) = some r ∧
      t.usesPosition = true ∧ legalPosition (posField w) = false ∧ decode w = .error .invalidBitPosition) ∨
    (∃ t r, OpTag.ofCode (opField w) = some t ∧ Reg8.ofCode (selField w) = some r ∧
      (t.usesPosition = true → legalPosition (posField w) = true) ∧
      decode w = .ok (t.instr r (posField w))) := by
  unfold decode
  cases ht : OpTag.ofCode (opField w) with
  | none => simp
  | some t =>
    cases hr : Reg8.ofCode (selField w) with
    | none => simp
    | some r => cases hu : t.usesPosition <;> cases hp : legalPosition (posField w) <;> simp [hu]

end Sys2Proof
end

