-- ==== Sys2Proof/Laws/State.lean ====
section
/-! SUPPORT. What each named update of the state does to each field, and the read-after-write laws of
the register file. -/

namespace Sys2Proof.Machine

section Fields
variable (s : State)

@[simp] theorem State.commit_rf (t : CommitTarget) (r : Reg8) (e : EngineResult) :
    (s.commit t r e).rf = (s.rf.commit t r e.res).writeFlags e.flags := rfl
@[simp] theorem State.commit_inputs (t : CommitTarget) (r : Reg8) (e : EngineResult) :
    (s.commit t r e).inputs = s.inputs := rfl
@[simp] theorem State.commit_exStatus (t : CommitTarget) (r : Reg8) (e : EngineResult) :
    (s.commit t r e).exStatus = .ok := rfl
@[simp] theorem State.commit_freeIdx (t : CommitTarget) (r : Reg8) (e : EngineResult) :
    (s.commit t r e).freeIdx = s.freeIdx := rfl

@[simp] theorem State.raiseError_rf (e : ExError) : (s.raiseError e).rf = s.rf := rfl
@[simp] theorem State.raiseError_inputs (e : ExError) : (s.raiseError e).inputs = s.inputs := rfl
@[simp] theorem State.raiseError_exStatus (e : ExError) : (s.raiseError e).exStatus = .raised e := rfl
@[simp] theorem State.raiseError_freeIdx (e : ExError) : (s.raiseError e).freeIdx = s.freeIdx := rfl

@[simp] theorem State.freeStatus_rf : s.freeStatus.rf = s.rf := rfl
@[simp] theorem State.freeStatus_inputs : s.freeStatus.inputs = s.inputs := rfl
@[simp] theorem State.freeStatus_freeIdx : s.freeStatus.freeIdx = s.freeIdx + 1 := rfl

@[simp] theorem State.present_rf (p : PortInputs) : (s.present p).rf = s.rf := rfl
@[simp] theorem State.present_inputs (p : PortInputs) : (s.present p).inputs = p :: s.inputs := rfl
@[simp] theorem State.present_exStatus (p : PortInputs) : (s.present p).exStatus = s.exStatus := rfl
@[simp] theorem State.present_freeIdx (p : PortInputs) : (s.present p).freeIdx = s.freeIdx := rfl

@[simp] theorem State.initial_rf (rf : RegFile) (ps : List PortInputs) : (State.initial rf ps).rf = rf := rfl
@[simp] theorem State.initial_inputs (rf : RegFile) (ps : List PortInputs) :
    (State.initial rf ps).inputs = ps := rfl
@[simp] theorem State.initial_freeIdx (rf : RegFile) (ps : List PortInputs) :
    (State.initial rf ps).freeIdx = 1 := rfl

end Fields

section Registers
variable (rf : RegFile) (r r' : Reg8) (v : Byte) (f : Flags)

@[simp] theorem RegFile.writeFlags_f : (rf.writeFlags f).f = f := rfl
@[simp] theorem RegFile.read_writeFlags : (rf.writeFlags f).read r = rf.read r := by cases r <;> rfl

@[simp] theorem RegFile.write_f : (rf.write r v).f = rf.f := by cases r <;> rfl

/-- A read of the register just written gives the value written. -/
@[simp] theorem RegFile.read_write_same : (rf.write r v).read r = v := by cases r <;> rfl

/-- A write leaves every other register alone. -/
theorem RegFile.read_write_of_ne (h : r' ≠ r) : (rf.write r v).read r' = rf.read r' := by
  cases r <;> cases r' <;> first | rfl | exact absurd rfl h

@[simp] theorem RegFile.commit_acc : rf.commit .a r v = rf.write .a v := rfl
@[simp] theorem RegFile.commit_sel : rf.commit .s r v = rf.write r v := rfl
@[simp] theorem RegFile.commit_hl : rf.commit .hl r v = rf.setPair .hl (zext16 v) := rfl
@[simp] theorem RegFile.commit_none : rf.commit .none r v = rf := rfl

/-- `setPair HL` leaves every register but H and L alone. -/
theorem RegFile.read_setPair_hl_of_ne (p : PairWord) (h : r' ≠ .h) (l : r' ≠ .l) :
    (rf.setPair .hl p).read r' = rf.read r' := by
  cases r' <;> first | rfl | exact absurd rfl h | exact absurd rfl l

@[simp] theorem RegFile.read_h_setPair_hl (p : PairWord) : (rf.setPair .hl p).read .h = hi p := rfl
@[simp] theorem RegFile.read_l_setPair_hl (p : PairWord) : (rf.setPair .hl p).read .l = lo p := rfl

/-- Two register files are equal when every register reads alike and F is alike. -/
theorem RegFile.ext_read (rf' : RegFile) (hr : ∀ x, rf.read x = rf'.read x) (hf : rf.f = rf'.f) :
    rf = rf' := by
  cases rf; cases rf'
  have ha := hr .a
  have hb := hr .b
  have hc := hr .c
  have hd := hr .d
  have he := hr .e
  have hh := hr .h
  have hl := hr .l
  simp only [RegFile.read] at ha hb hc hd he hh hl hf
  simp only [RegFile.mk.injEq]
  exact ⟨ha, hb, hc, hd, he, hh, hl, hf⟩

end Registers

/-! ### Bytes of a pair -/

@[simp] theorem hi_pairOf (x y : Byte) : hi (pairOf x y) = x := by
  unfold hi pairOf zext16; ext i h; interval_cases i <;> simp [BitVec.getLsbD_of_ge, BitVec.getLsbD_eq_getElem]

@[simp] theorem lo_pairOf (x y : Byte) : lo (pairOf x y) = y := by
  unfold lo pairOf zext16; ext i h; interval_cases i <;> simp [BitVec.getLsbD_eq_getElem]

theorem pairOf_hi_lo (v : PairWord) : pairOf (hi v) (lo v) = v := by
  unfold hi lo pairOf zext16; ext i h; interval_cases i <;> simp [BitVec.getLsbD_eq_getElem]

theorem hi_zext16 (x : Byte) : hi (zext16 x) = 0#8 := by
  unfold hi zext16; ext i h; simp

theorem lo_zext16 (x : Byte) : lo (zext16 x) = x := by
  unfold lo zext16; ext i h; interval_cases i <;> simp [BitVec.getLsbD_eq_getElem]

end Sys2Proof.Machine
end

