-- ==== Sys2Proof/Laws/Ops.lean ====
section
/-! SUPPORT. What each shared operation can do, said once: the engine's arithmetic in naturals, and
the next state of each operand class. -/

namespace Sys2Proof.Machine

/-! ### Values -/

theorem lowNibble_eq (v : Byte) : lowNibble v = v.toNat % 16 := by
  unfold lowNibble
  rw [BitVec.toNat_and]
  exact Nat.and_two_pow_sub_one_eq_mod v.toNat 4

theorem toNat_trunc8 (i : Int) : ((trunc8 i).toNat : Int) = i % 256 := by
  unfold trunc8
  rw [BitVec.toNat_ofInt]
  omega

theorem toNat_trunc8_nat (n : Nat) : (trunc8 (n : Int)).toNat = n % 256 := by
  have := toNat_trunc8 (n : Int)
  omega

theorem isZero_eq (v : Byte) : isZero v = decide (v.toNat = 0) := by
  unfold isZero
  rw [Bool.eq_iff_iff, beq_iff_eq, decide_eq_true_iff, ← BitVec.toNat_inj]
  rfl

theorem flagNat_le (b : Bool) : flagNat b ≤ 1 := by cases b <;> decide

/-! ### The operand classes -/

section Classes
variable (t : OpTag) (r : Reg8) (s : State)

theorem runAcc_next (g : Byte → Byte → Flags → EngineResult) :
    runAcc t g r s = .next (s.commit (commitTarget t) r (g (s.rf.read .a) (s.rf.read r) s.rf.f)) := rfl

theorem runHlSum_next (g : Byte → Byte → Byte → Flags → EngineResult) :
    runHlSum t g r s =
      .next (s.commit (commitTarget t) r (g (s.rf.read r) (s.rf.read .h) (s.rf.read .l) s.rf.f)) := rfl

theorem runInPlace_next (g : Byte → Flags → EngineResult) :
    runInPlace t g r s = .next (s.commit (commitTarget t) r (g (s.rf.read r) s.rf.f)) := rfl

theorem runImplicit_next (g : Byte → Flags → EngineResult) :
    runImplicit t g s = .next (s.commit (commitTarget t) .a (g (s.rf.read .a) s.rf.f)) := rfl

theorem runBit_legal (g : Nat → Byte → Flags → EngineResult) (pos : BitVec 4) (h : legalPosition pos = true) :
    runBit t g pos r s = .next (s.commit (commitTarget t) r (g pos.toNat (s.rf.read r) s.rf.f)) := by
  simp [runBit, h]

theorem runBit_illegal (g : Nat → Byte → Flags → EngineResult) (pos : BitVec 4) (h : legalPosition pos = false) :
    runBit t g pos r s = .next (s.raiseError .invalidBitPosition) := by
  simp [runBit, h]

end Classes

/-- What any instruction can do: it commits one engine result to its commit target, or, with a bit
position outside 0 to 7, raises InvalidBitPosition. -/
theorem exec_cases (i : Instr) (s : State) :
    (i.wellFormed = true ∧ ∃ e, exec i s = .next (s.commit (commitTarget i.tag) i.selected e)) ∨
    (i.wellFormed = false ∧ exec i s = .next (s.raiseError .invalidBitPosition)) := by
  have bitCase : ∀ (t : OpTag) g (pos : BitVec 4) (r : Reg8),
      (legalPosition pos = true ∧ ∃ e, runBit t g pos r s = .next (s.commit (commitTarget t) r e)) ∨
      (legalPosition pos = false ∧ runBit t g pos r s = .next (s.raiseError .invalidBitPosition)) := by
    intro t g pos r
    cases h : legalPosition pos with
    | true => exact .inl ⟨rfl, _, runBit_legal t r s g pos h⟩
    | false => exact .inr ⟨rfl, runBit_illegal t r s g pos h⟩
  cases i with
  | bit pos r => exact bitCase .bit bitEngine pos r
  | res pos r => exact bitCase .res resEngine pos r
  | set pos r => exact bitCase .set setEngine pos r
  | _ => exact .inl ⟨rfl, _, rfl⟩

end Sys2Proof.Machine
end

