-- ==== Sys2Proof/Laws/PerInstr.lean ====
section
/-! SUPPORT. Statements made for each instruction, as syntax. The family EncodeFields: the canonical
word carries the instruction's three fields, and the fields give the instruction back. -/

namespace Sys2Proof.Laws.EncodeFields

/-- The word of `i` has its operation code, its register's code and its position in the fields of
30_encoding.md R71, and putting the three together again gives `i`. -/
def Statement (i : Instr) : Prop :=
  opField (encode i) = i.tag.code ∧ selField (encode i) = i.selected.code ∧
    posField (encode i) = i.position ∧ i.tag.instr i.selected i.position = i ∧
    (i.tag.usesPosition = false → i.position = 0)

theorem add (r : Reg8) : Statement (.add r) :=
  ⟨opField_wordOf .., selField_wordOf .., posField_wordOf .., rfl, fun _ => rfl⟩
theorem adc (r : Reg8) : Statement (.adc r) :=
  ⟨opField_wordOf .., selField_wordOf .., posField_wordOf .., rfl, fun _ => rfl⟩
theorem sub (r : Reg8) : Statement (.sub r) :=
  ⟨opField_wordOf .., selField_wordOf .., posField_wordOf .., rfl, fun _ => rfl⟩
theorem sbc (r : Reg8) : Statement (.sbc r) :=
  ⟨opField_wordOf .., selField_wordOf .., posField_wordOf .., rfl, fun _ => rfl⟩
theorem and (r : Reg8) : Statement (.and r) :=
  ⟨opField_wordOf .., selField_wordOf .., posField_wordOf .., rfl, fun _ => rfl⟩
theorem xor (r : Reg8) : Statement (.xor r) :=
  ⟨opField_wordOf .., selField_wordOf .., posField_wordOf .., rfl, fun _ => rfl⟩
theorem or (r : Reg8) : Statement (.or r) :=
  ⟨opField_wordOf .., selField_wordOf .., posField_wordOf .., rfl, fun _ => rfl⟩
theorem cp (r : Reg8) : Statement (.cp r) :=
  ⟨opField_wordOf .., selField_wordOf .., posField_wordOf .., rfl, fun _ => rfl⟩
theorem inc (r : Reg8) : Statement (.inc r) :=
  ⟨opField_wordOf .., selField_wordOf .., posField_wordOf .., rfl, fun _ => rfl⟩
theorem dec (r : Reg8) : Statement (.dec r) :=
  ⟨opField_wordOf .., selField_wordOf .., posField_wordOf .., rfl, fun _ => rfl⟩
theorem addhl (r : Reg8) : Statement (.addhl r) :=
  ⟨opField_wordOf .., selField_wordOf .., posField_wordOf .., rfl, fun _ => rfl⟩
theorem cpl : Statement .cpl :=
  ⟨opField_wordOf .., selField_wordOf .., posField_wordOf .., rfl, fun _ => rfl⟩
theorem scf : Statement .scf :=
  ⟨opField_wordOf .., selField_wordOf .., posField_wordOf .., rfl, fun _ => rfl⟩
theorem ccf : Statement .ccf :=
  ⟨opField_wordOf .., selField_wordOf .., posField_wordOf .., rfl, fun _ => rfl⟩
theorem rlca : Statement .rlca :=
  ⟨opField_wordOf .., selField_wordOf .., posField_wordOf .., rfl, fun _ => rfl⟩
theorem rrca : Statement .rrca :=
  ⟨opField_wordOf .., selField_wordOf .., posField_wordOf .., rfl, fun _ => rfl⟩
theorem rla : Statement .rla :=
  ⟨opField_wordOf .., selField_wordOf .., posField_wordOf .., rfl, fun _ => rfl⟩
theorem rra : Statement .rra :=
  ⟨opField_wordOf .., selField_wordOf .., posField_wordOf .., rfl, fun _ => rfl⟩
theorem rlc (r : Reg8) : Statement (.rlc r) :=
  ⟨opField_wordOf .., selField_wordOf .., posField_wordOf .., rfl, fun _ => rfl⟩
theorem rrc (r : Reg8) : Statement (.rrc r) :=
  ⟨opField_wordOf .., selField_wordOf .., posField_wordOf .., rfl, fun _ => rfl⟩
theorem rl (r : Reg8) : Statement (.rl r) :=
  ⟨opField_wordOf .., selField_wordOf .., posField_wordOf .., rfl, fun _ => rfl⟩
theorem rr (r : Reg8) : Statement (.rr r) :=
  ⟨opField_wordOf .., selField_wordOf .., posField_wordOf .., rfl, fun _ => rfl⟩
theorem sla (r : Reg8) : Statement (.sla r) :=
  ⟨opField_wordOf .., selField_wordOf .., posField_wordOf .., rfl, fun _ => rfl⟩
theorem srl (r : Reg8) : Statement (.srl r) :=
  ⟨opField_wordOf .., selField_wordOf .., posField_wordOf .., rfl, fun _ => rfl⟩
theorem swap (r : Reg8) : Statement (.swap r) :=
  ⟨opField_wordOf .., selField_wordOf .., posField_wordOf .., rfl, fun _ => rfl⟩
theorem bit (pos : BitVec 4) (r : Reg8) : Statement (.bit pos r) :=
  ⟨opField_wordOf .., selField_wordOf .., posField_wordOf .., rfl, nofun⟩
theorem res (pos : BitVec 4) (r : Reg8) : Statement (.res pos r) :=
  ⟨opField_wordOf .., selField_wordOf .., posField_wordOf .., rfl, nofun⟩
theorem set (pos : BitVec 4) (r : Reg8) : Statement (.set pos r) :=
  ⟨opField_wordOf .., selField_wordOf .., posField_wordOf .., rfl, nofun⟩

end Sys2Proof.Laws.EncodeFields
end

