-- ==== Sys2Proof/Laws/Step.lean ====
section
/-! SUPPORT. What a step can do, said once. -/

namespace Sys2Proof.Machine

theorem step_no_inputs (s : State) (h : s.inputs = []) : step s = .next s.freeStatus := by
  simp [step, serveNext, h, idle]

theorem step_cons (s : State) (p : PortInputs) (rest : List PortInputs) (h : s.inputs = p :: rest) :
    step s = serve p { s with inputs := rest } := by
  simp [step, serveNext, h]

/-- The four things the ports can ask of a step. -/
theorem PortInputs.request_cases (p : PortInputs) :
    (p.exEn = true ∧ p.wrEn = true ∧ p.request = .error .simultaneousRequests) ∨
    (p.exEn = true ∧ p.wrEn = false ∧ p.request = .ok (some (.execute p.exInsn))) ∨
    (p.exEn = false ∧ p.wrEn = true ∧
      p.request = .ok (some (.setPair (Pair.ofCode p.wrPair) p.wrData))) ∨
    (p.exEn = false ∧ p.wrEn = false ∧ p.request = .ok none) := by
  cases p with
  | mk en insn we wp wd => cases en <;> cases we <;> simp [PortInputs.request]

/-- An Execute always answers a next state, and touches neither the queue nor the counter. -/
theorem executeWord_next (w : InsnWord) (s : State) :
    ∃ t, executeWord w s = .next t ∧ t.inputs = s.inputs ∧ t.freeIdx = s.freeIdx := by
  unfold executeWord
  cases decode w with
  | error e => exact ⟨_, rfl, rfl, rfl⟩
  | ok i =>
    rcases exec_cases i s with ⟨-, e, h⟩ | ⟨-, h⟩
    · exact ⟨_, h, rfl, rfl⟩
    · exact ⟨_, h, rfl, rfl⟩

/-- Serving one step's port values: it is refused exactly when both enables are asserted, and
otherwise answers a next state with the rest of the queue. -/
theorem serve_cases (p : PortInputs) (s : State) :
    (p.exEn = true ∧ p.wrEn = true ∧ serve p s = .refused .simultaneousRequests) ∨
    (¬(p.exEn = true ∧ p.wrEn = true) ∧ ∃ t, serve p s = .next t ∧ t.inputs = s.inputs) := by
  rcases p.request_cases with ⟨he, hw, h⟩ | ⟨he, hw, h⟩ | ⟨he, hw, h⟩ | ⟨he, hw, h⟩
  · exact .inl ⟨he, hw, by simp [serve, h]⟩
  · obtain ⟨t, ht, hi, -⟩ := executeWord_next p.exInsn s
    exact .inr ⟨by simp [hw], t, by simp [serve, h, transact, ht], hi⟩
  · refine .inr ⟨by simp [he], { s with rf := s.rf.setPair (Pair.ofCode p.wrPair) p.wrData }.freeStatus, ?_, rfl⟩
    simp [serve, h, transact, setPairTransaction]
  · exact .inr ⟨by simp [he], s.freeStatus, by simp [serve, h, idle], rfl⟩

end Sys2Proof.Machine
end

