-- ==== Sys2Proof/Tests/Slice0.lean ====
section
/-! SUPPORT. Tests. Expected results are the spec's own: the vectors of 95_test_vectors.md (V and S
numbers), its error and ignored-field tables, and words written out from 30_encoding.md R71 to R73.
A word reaches the machine through `withFetchWord` and one `step`. -/

namespace Sys2Proof.Tests
open Sys2Proof.Machine

/-- Flags written `ZNHC`, as 95_test_vectors.md writes them. -/
def znhc (v : BitVec 4) : Flags :=
  { z := v.getLsbD 3, n := v.getLsbD 2, h := v.getLsbD 1, c := v.getLsbD 0 }

/-- The start state of 95_test_vectors.md section 5. -/
def background : RegFile :=
  { a := 0x11, b := 0x22, c := 0x33, d := 0x44, e := 0x55, h := 0x66, l := 0x77, f := znhc 0b1010 }

/-- The register file and the status after one step from `rf` with the port values `p`. -/
def afterPorts (rf : RegFile) (p : PortInputs) : Option (RegFile × ExStatus) :=
  match step (State.initial rf [p]) with
  | .next t => some (t.rf, t.exStatus)
  | .fault _ => none
  | .refused _ => none

/-- The same after the step that executes the word `w`. -/
def afterWord (rf : RegFile) (w : Nat) : Option (RegFile × ExStatus) :=
  match step ((State.initial rf []).withFetchWord 16 w) with
  | .next t => some (t.rf, t.exStatus)
  | .fault _ => none
  | .refused _ => none

/-- The register file alone, after a SetPair. -/
def afterSetPair (rf : RegFile) (p : Pair) (v : PairWord) : Option RegFile :=
  (afterPorts rf (PortInputs.setPair p v)).map Prod.fst

/-! ### WellFormed refuses an ill-formed term for each of its checks -/

theorem test_wellFormed_refuses_bit_position_8 : (Instr.bit 8 .b).wellFormed = false := by decide
theorem test_wellFormed_refuses_res_position_15 : (Instr.res 15 .b).wellFormed = false := by decide
theorem test_wellFormed_refuses_set_position_10 : (Instr.set 10 .a).wellFormed = false := by decide
theorem test_wellFormed_accepts_position_7 : (Instr.set 7 .a).wellFormed = true := by decide

/-! ### Decoding: words written out from R71 (op, sel, pos), R72 and R73 -/

theorem test_decode_add : decode 0b000000000000#12 = .ok (.add .b) := by decide
theorem test_decode_adc : decode 0b000010010101#12 = .ok (.adc .c) := by decide
theorem test_decode_sub : decode 0b000100101010#12 = .ok (.sub .d) := by decide
theorem test_decode_sbc : decode 0b000110111111#12 = .ok (.sbc .e) := by decide
theorem test_decode_and : decode 0b001001000100#12 = .ok (.and .h) := by decide
theorem test_decode_xor : decode 0b001011011001#12 = .ok (.xor .l) := by decide
theorem test_decode_or : decode 0b001101111110#12 = .ok (.or .a) := by decide
theorem test_decode_cp : decode 0b001110000011#12 = .ok (.cp .b) := by decide
theorem test_decode_inc : decode 0b010000011000#12 = .ok (.inc .c) := by decide
theorem test_decode_dec : decode 0b010010101101#12 = .ok (.dec .d) := by decide
theorem test_decode_addhl : decode 0b010100110010#12 = .ok (.addhl .e) := by decide
theorem test_decode_cpl : decode 0b010111000111#12 = .ok .cpl := by decide
theorem test_decode_scf : decode 0b011001011100#12 = .ok .scf := by decide
theorem test_decode_ccf : decode 0b011011110001#12 = .ok .ccf := by decide
theorem test_decode_rlca : decode 0b011100000110#12 = .ok .rlca := by decide
theorem test_decode_rrca : decode 0b011110011011#12 = .ok .rrca := by decide
theorem test_decode_rla : decode 0b100000100000#12 = .ok .rla := by decide
theorem test_decode_rra : decode 0b100010110101#12 = .ok .rra := by decide
theorem test_decode_rlc : decode 0b100101001010#12 = .ok (.rlc .h) := by decide
theorem test_decode_rrc : decode 0b100111011111#12 = .ok (.rrc .l) := by decide
theorem test_decode_rl : decode 0b101001110100#12 = .ok (.rl .a) := by decide
theorem test_decode_rr : decode 0b101010001001#12 = .ok (.rr .b) := by decide
theorem test_decode_sla : decode 0b101100011110#12 = .ok (.sla .c) := by decide
theorem test_decode_srl : decode 0b101110100011#12 = .ok (.srl .d) := by decide
theorem test_decode_swap : decode 0b110000111000#12 = .ok (.swap .e) := by decide
theorem test_decode_bit : decode 0b110011000101#12 = .ok (.bit 5 .h) := by decide
theorem test_decode_res : decode 0b110101010000#12 = .ok (.res 0 .l) := by decide
theorem test_decode_set : decode 0b110111110111#12 = .ok (.set 7 .a) := by decide

/-- R234: the operation's error wins, then the selector's (95_test_vectors.md section 5). -/
theorem test_decode_error_priority :
    decode 0xF69#12 = .error .invalidOperation ∧ decode 0xCE9#12 = .error .invalidRegisterSelector ∧
      decode 0xC88#12 = .error .invalidBitPosition := by decide

/-- Canonical words (R82). -/
theorem test_encode_canonical :
    encode (.add .a) = 0x070#12 ∧ encode .cpl = 0x5F0#12 ∧ encode (.bit 3 .c) = 0xC93#12 ∧
      encode (.set 7 .b) = 0xD87#12 ∧ encode .rra = 0x8F0#12 := by decide

/-- The opcode table's numbering, and a number that is no 12-bit word. -/
theorem test_decodeTableWord :
    decodeTableWord 16 0xC93 = some (.bit 3 .c) ∧ decodeTableWord 16 0x060 = none ∧
      decodeTableWord 16 0x1070 = none := by decide

/-- The assembler syntax (R80). -/
theorem test_asm :
    (Instr.addhl .c).asm = "ADDHL c" ∧ (Instr.bit 3 .c).asm = "BIT 3, c" ∧ Instr.rlca.asm = "RLCA" := by
  decide

/-! ### One step on each vector chosen from 95_test_vectors.md section 3 -/

/-- V2: `ADD b`, wrap to zero: Z, H, C. -/
theorem test_add_wraps_to_zero :
    afterWord { background with a := 0xFF, b := 0x01, f := znhc 0b0000 } 0x000 =
      some ({ background with a := 0x00, b := 0x01, f := znhc 0b1011 }, .ok) := by decide

/-- V4: `ADD a`, same register as source and destination. -/
theorem test_add_a_to_itself :
    afterWord { background with a := 0x80, f := znhc 0b0000 } 0x070 =
      some ({ background with a := 0x00, f := znhc 0b1001 }, .ok) := by decide

/-- V6: `ADC d`, carry-in makes 0x100. -/
theorem test_adc_carry_in_wraps :
    afterWord { background with a := 0xE1, d := 0x1E, f := znhc 0b0001 } 0x0A0 =
      some ({ background with a := 0x00, d := 0x1E, f := znhc 0b1011 }, .ok) := by decide

/-- V8: `ADC e`, half-carry from carry-in alone. -/
theorem test_adc_half_carry_from_carry_in :
    afterWord { background with a := 0x0F, e := 0x00, f := znhc 0b0001 } 0x0B0 =
      some ({ background with a := 0x10, e := 0x00, f := znhc 0b0010 }, .ok) := by decide

/-- V10: `SUB b`, borrow: N, H, C. -/
theorem test_sub_borrows :
    afterWord { background with a := 0x00, b := 0x01, f := znhc 0b0000 } 0x100 =
      some ({ background with a := 0xFF, b := 0x01, f := znhc 0b0111 }, .ok) := by decide

/-- V12: `SUB a`, x - x = 0: Z, N; C cleared. -/
theorem test_sub_a_from_itself :
    afterWord { background with a := 0x5A, f := znhc 0b0001 } 0x170 =
      some ({ background with a := 0x00, f := znhc 0b1100 }, .ok) := by decide

/-- V15: `SBC b`, 0 - 0xFF - 1 = 0x00 with all flags. -/
theorem test_sbc_all_flags :
    afterWord { background with a := 0x00, b := 0xFF, f := znhc 0b0001 } 0x180 =
      some ({ background with a := 0x00, b := 0xFF, f := znhc 0b1111 }, .ok) := by decide

/-- V17: `SBC a`, x - x - 1 = 0xFF. -/
theorem test_sbc_a_from_itself_with_borrow :
    afterWord { background with a := 0x42, f := znhc 0b0001 } 0x1F0 =
      some ({ background with a := 0xFF, f := znhc 0b0111 }, .ok) := by decide

/-- V19: `CP d`, A unchanged; borrow. -/
theorem test_cp_keeps_a :
    afterWord { background with a := 0x3C, d := 0x40, f := znhc 0b0000 } 0x3A0 =
      some ({ background with a := 0x3C, d := 0x40, f := znhc 0b0101 }, .ok) := by decide

/-- V21: `CP d`, equal: Z, N; C cleared. -/
theorem test_cp_equal :
    afterWord { background with a := 0x3C, d := 0x3C, f := znhc 0b0001 } 0x3A0 =
      some ({ background with a := 0x3C, d := 0x3C, f := znhc 0b1100 }, .ok) := by decide

/-- V22: `ADDHL b`, 0x2FD: carry, H <- 0. -/
theorem test_addhl_carries_and_clears_h :
    afterWord { background with b := 0xFF, h := 0xFF, l := 0xFF, f := znhc 0b0000 } 0x500 =
      some ({ background with b := 0xFF, h := 0x00, l := 0xFD, f := znhc 0b0011 }, .ok) := by decide

/-- V25: `ADDHL h`, operand is H itself: 0x40+0x40+0x01. -/
theorem test_addhl_operand_is_h :
    afterWord { background with h := 0x40, l := 0x01, f := znhc 0b0000 } 0x540 =
      some ({ background with h := 0x00, l := 0x81, f := znhc 0b0000 }, .ok) := by decide

/-- V27: `INC e`, wrap to zero; C kept 1. -/
theorem test_inc_wraps_keeps_carry :
    afterWord { background with e := 0xFF, f := znhc 0b0001 } 0x430 =
      some ({ background with e := 0x00, f := znhc 0b1011 }, .ok) := by decide

/-- V28: `INC e`, half-carry; N cleared; C kept 0. -/
theorem test_inc_half_carry :
    afterWord { background with e := 0x0F, f := znhc 0b0100 } 0x430 =
      some ({ background with e := 0x10, f := znhc 0b0010 }, .ok) := by decide

/-- V30: `DEC h`, wrap to 0xFF; C kept 0. -/
theorem test_dec_wraps :
    afterWord { background with h := 0x00, f := znhc 0b0000 } 0x4C0 =
      some ({ background with h := 0xFF, f := znhc 0b0110 }, .ok) := by decide

/-- V31: `DEC h`, half-borrow; C kept 1. -/
theorem test_dec_half_borrow_keeps_carry :
    afterWord { background with h := 0x10, f := znhc 0b0001 } 0x4C0 =
      some ({ background with h := 0x0F, f := znhc 0b0111 }, .ok) := by decide

/-- V34: `AND b`, H <- 0 per the source table. -/
theorem test_and_clears_half_carry :
    afterWord { background with a := 0x5A, b := 0x0F, f := znhc 0b1111 } 0x200 =
      some ({ background with a := 0x0A, b := 0x0F, f := znhc 0b0000 }, .ok) := by decide

/-- V35: `AND b`, disjoint bits: zero. -/
theorem test_and_zero :
    afterWord { background with a := 0x5A, b := 0xA5, f := znhc 0b0000 } 0x200 =
      some ({ background with a := 0x00, b := 0xA5, f := znhc 0b1000 }, .ok) := by decide

/-- V36: `OR c`, 0xFF; all flags cleared. -/
theorem test_or_all_ones :
    afterWord { background with a := 0x5A, c := 0xA5, f := znhc 0b1111 } 0x310 =
      some ({ background with a := 0xFF, c := 0xA5, f := znhc 0b0000 }, .ok) := by decide

/-- V37: `OR c`, zero. -/
theorem test_or_zero :
    afterWord { background with a := 0x00, c := 0x00, f := znhc 0b0000 } 0x310 =
      some ({ background with a := 0x00, c := 0x00, f := znhc 0b1000 }, .ok) := by decide

/-- V38: `XOR d`, complement by XOR. -/
theorem test_xor_complements :
    afterWord { background with a := 0x5A, d := 0xFF, f := znhc 0b0000 } 0x2A0 =
      some ({ background with a := 0xA5, d := 0xFF, f := znhc 0b0000 }, .ok) := by decide

/-- V39: `XOR a`, x ^ x = 0. -/
theorem test_xor_a_with_itself :
    afterWord { background with a := 0x77, f := znhc 0b0011 } 0x2F0 =
      some ({ background with a := 0x00, f := znhc 0b1000 }, .ok) := by decide

/-- V40: `CPL`, Z and C unaffected. -/
theorem test_cpl_complements :
    afterWord { background with a := 0x35, f := znhc 0b0000 } 0x5F0 =
      some ({ background with a := 0xCA, f := znhc 0b0110 }, .ok) := by decide

/-- V41: `CPL`, result 0x00: Z unaffected, so it stays 1 only because it was 1. -/
theorem test_cpl_zero_result_keeps_z :
    afterWord { background with a := 0xFF, f := znhc 0b1001 } 0x5F0 =
      some ({ background with a := 0x00, f := znhc 0b1111 }, .ok) := by decide

/-- V43: `SCF`, C <- 1; N, H cleared; Z kept. -/
theorem test_scf_sets_carry :
    afterWord { background with f := znhc 0b0110 } 0x670 =
      some ({ background with f := znhc 0b0001 }, .ok) := by decide

/-- V44: `SCF`, already set. -/
theorem test_scf_already_set :
    afterWord { background with f := znhc 0b1001 } 0x670 =
      some ({ background with f := znhc 0b1001 }, .ok) := by decide

/-- V45: `CCF`, C 1 -> 0. -/
theorem test_ccf_clears_carry :
    afterWord { background with f := znhc 0b0001 } 0x6F0 =
      some ({ background with f := znhc 0b0000 }, .ok) := by decide

/-- V46: `CCF`, C 0 -> 1; Z kept 1. -/
theorem test_ccf_sets_carry :
    afterWord { background with f := znhc 0b1110 } 0x6F0 =
      some ({ background with f := znhc 0b1001 }, .ok) := by decide

/-- V48: `RLCA`, zero result: Z unaffected (kept 0), C <- 0. -/
theorem test_rlca_zero_keeps_z :
    afterWord { background with a := 0x00, f := znhc 0b0001 } 0x770 =
      some ({ background with a := 0x00, f := znhc 0b0000 }, .ok) := by decide

/-- V49: `RLCA`, Z kept 1 with non-zero result. -/
theorem test_rlca_keeps_z_set :
    afterWord { background with a := 0x85, f := znhc 0b1000 } 0x770 =
      some ({ background with a := 0x0B, f := znhc 0b1001 }, .ok) := by decide

/-- V50: `RRCA`, bit 0 wraps to bit 7 and C. -/
theorem test_rrca_wraps_bit_0 :
    afterWord { background with a := 0x85, f := znhc 0b0000 } 0x7F0 =
      some ({ background with a := 0xC2, f := znhc 0b0001 }, .ok) := by decide

/-- V51: `RRCA`, C <- 0. -/
theorem test_rrca_clears_carry :
    afterWord { background with a := 0x3A, f := znhc 0b0001 } 0x7F0 =
      some ({ background with a := 0x1D, f := znhc 0b0000 }, .ok) := by decide

/-- V53: `RLA`, carry-in 1. -/
theorem test_rla_carry_in :
    afterWord { background with a := 0x85, f := znhc 0b0001 } 0x870 =
      some ({ background with a := 0x0B, f := znhc 0b0001 }, .ok) := by decide

/-- V54: `RLA`, result 0x00; Z kept 0. -/
theorem test_rla_zero_keeps_z :
    afterWord { background with a := 0x80, f := znhc 0b0000 } 0x870 =
      some ({ background with a := 0x00, f := znhc 0b0001 }, .ok) := by decide

/-- V56: `RRA`, carry-in 1. -/
theorem test_rra_carry_in :
    afterWord { background with a := 0x3B, f := znhc 0b0001 } 0x8F0 =
      some ({ background with a := 0x9D, f := znhc 0b0001 }, .ok) := by decide

/-- V57: `RRA`, result 0x00; Z kept 0. -/
theorem test_rra_zero_keeps_z :
    afterWord { background with a := 0x01, f := znhc 0b0000 } 0x8F0 =
      some ({ background with a := 0x00, f := znhc 0b0001 }, .ok) := by decide

/-- V58: `RLC b`, rule R186. -/
theorem test_rlc_wraps_bit_7 :
    afterWord { background with b := 0x85, f := znhc 0b0000 } 0x900 =
      some ({ background with b := 0x0B, f := znhc 0b0001 }, .ok) := by decide

/-- V59: `RLC b`, zero: Z <- 1; C <- 0. -/
theorem test_rlc_zero_sets_z :
    afterWord { background with b := 0x00, f := znhc 0b0111 } 0x900 =
      some ({ background with b := 0x00, f := znhc 0b1000 }, .ok) := by decide

/-- V60: `RRC c`, rule R187. -/
theorem test_rrc_wraps_bit_0 :
    afterWord { background with c := 0x85, f := znhc 0b0000 } 0x990 =
      some ({ background with c := 0xC2, f := znhc 0b0001 }, .ok) := by decide

/-- V61: `RRC c`, 0x80, C <- 1. -/
theorem test_rrc_to_0x80 :
    afterWord { background with c := 0x01, f := znhc 0b0000 } 0x990 =
      some ({ background with c := 0x80, f := znhc 0b0001 }, .ok) := by decide

/-- V63: `RL d`, result 0x00: Z <- 1, C <- 1. -/
theorem test_rl_zero_sets_z :
    afterWord { background with d := 0x80, f := znhc 0b0000 } 0xA20 =
      some ({ background with d := 0x00, f := znhc 0b1001 }, .ok) := by decide

/-- V64: `RL d`, carry-in 1: 0x01. -/
theorem test_rl_carry_in :
    afterWord { background with d := 0x80, f := znhc 0b0001 } 0xA20 =
      some ({ background with d := 0x01, f := znhc 0b0001 }, .ok) := by decide

/-- V66: `RR e`, carry-in 1. -/
theorem test_rr_carry_in :
    afterWord { background with e := 0x3B, f := znhc 0b0001 } 0xAB0 =
      some ({ background with e := 0x9D, f := znhc 0b0001 }, .ok) := by decide

/-- V67: `RR e`, result 0x00: Z <- 1, C <- 1. -/
theorem test_rr_zero_sets_z :
    afterWord { background with e := 0x01, f := znhc 0b0000 } 0xAB0 =
      some ({ background with e := 0x00, f := znhc 0b1001 }, .ok) := by decide

/-- V68: `SLA h`, bit 0 <- 0 even with C = 1. -/
theorem test_sla_shifts_in_zero :
    afterWord { background with h := 0x85, f := znhc 0b0001 } 0xB40 =
      some ({ background with h := 0x0A, f := znhc 0b0001 }, .ok) := by decide

/-- V69: `SLA h`, zero, carry. -/
theorem test_sla_zero :
    afterWord { background with h := 0x80, f := znhc 0b0000 } 0xB40 =
      some ({ background with h := 0x00, f := znhc 0b1001 }, .ok) := by decide

/-- V70: `SRL l`, bit 7 <- 0 even with C = 1. -/
theorem test_srl_shifts_in_zero :
    afterWord { background with l := 0x85, f := znhc 0b0001 } 0xBD0 =
      some ({ background with l := 0x42, f := znhc 0b0001 }, .ok) := by decide

/-- V71: `SRL l`, zero, carry. -/
theorem test_srl_zero :
    afterWord { background with l := 0x01, f := znhc 0b0000 } 0xBD0 =
      some ({ background with l := 0x00, f := znhc 0b1001 }, .ok) := by decide

/-- V72: `SWAP a`, nibbles exchanged; C <- 0. -/
theorem test_swap_exchanges_nibbles :
    afterWord { background with a := 0x3B, f := znhc 0b0111 } 0xC70 =
      some ({ background with a := 0xB3, f := znhc 0b0000 }, .ok) := by decide

/-- V73: `SWAP a`, zero. -/
theorem test_swap_zero :
    afterWord { background with a := 0x00, f := znhc 0b0000 } 0xC70 =
      some ({ background with a := 0x00, f := znhc 0b1000 }, .ok) := by decide

/-- V76: `BIT 2, c`, tested bit 0: Z <- 1. -/
theorem test_bit_tested_bit_clear :
    afterWord { background with c := 0x08, f := znhc 0b0000 } 0xC92 =
      some ({ background with c := 0x08, f := znhc 0b1010 }, .ok) := by decide

/-- V77: `BIT 7, a`, N cleared; C kept 1. -/
theorem test_bit_keeps_carry_clears_n :
    afterWord { background with a := 0x80, f := znhc 0b1101 } 0xCF7 =
      some ({ background with a := 0x80, f := znhc 0b0011 }, .ok) := by decide

/-- V81: `RES 0, d`, rule R212. -/
theorem test_res_clears_bit_0 :
    afterWord { background with d := 0xFF, f := znhc 0b0000 } 0xD20 =
      some ({ background with d := 0xFE, f := znhc 0b0000 }, .ok) := by decide

/-- V82: `RES 7, d`, already clear; flags unchanged. -/
theorem test_res_already_clear :
    afterWord { background with d := 0x7F, f := znhc 0b1111 } 0xD27 =
      some ({ background with d := 0x7F, f := znhc 0b1111 }, .ok) := by decide

/-- V79: `SET 7, b`, flags unchanged. -/
theorem test_set_sets_bit_7 :
    afterWord { background with b := 0x00, f := znhc 0b1010 } 0xD87 =
      some ({ background with b := 0x80, f := znhc 0b1010 }, .ok) := by decide

/-- V80: `SET 0, b`, already set: value unchanged. -/
theorem test_set_already_set :
    afterWord { background with b := 0x01, f := znhc 0b0101 } 0xD80 =
      some ({ background with b := 0x01, f := znhc 0b0101 }, .ok) := by decide

/-! ### The rest of the state and the interface -/

/-- 95_test_vectors.md section 2, the codec. -/
theorem test_codec :
    encodeFlags (decodeFlags 0xFF) = 0xF0 ∧ encodeFlags (decodeFlags 0xA5) = 0xA0 ∧
      decodeFlags 0x5A = znhc 0b0101 ∧ encodeFlags (znhc 0b0001) = 0x10 := by decide

/-- 95_test_vectors.md section 2, `SETPAIR af, 0xABCD`. -/
theorem test_setPair_af :
    afterSetPair background .af 0xABCD = some { background with a := 0xAB, f := znhc 0b1100 } ∧
      ({ background with a := 0xAB, f := znhc 0b1100 } : RegFile).getPair .af = 0xABC0 := by decide

/-- 95_test_vectors.md section 2, `SETPAIR bc, 0x1234` and `SETPAIR de, 0xBEEF`. -/
theorem test_setPair_bc_de :
    afterSetPair background .bc 0x1234 = some { background with b := 0x12, c := 0x34 } ∧
      afterSetPair background .de 0xBEEF = some { background with d := 0xBE, e := 0xEF } := by decide

/-- 95_test_vectors.md section 2, `SETPAIR hl, 0x00FF`. -/
theorem test_setPair_hl :
    afterSetPair background .hl 0x00FF = some { background with h := 0x00, l := 0xFF } := by decide

/-- 95_test_vectors.md section 3, the table of ROT_N 1 to 7 for 0x85. -/
theorem test_rotate_counts :
    [1, 2, 3, 4, 5, 6, 7].map (rotl 0x85) = [0x0B, 0x16, 0x2C, 0x58, 0xB0, 0x61, 0xC2] ∧
      [1, 2, 3, 4, 5, 6, 7].map (rotr 0x85) = [0xC2, 0x61, 0xB0, 0x58, 0x2C, 0x16, 0x0B] := by decide

/-- 95_test_vectors.md section 4: ignored fields. -/
theorem test_ignored_fields :
    decode 0x07F#12 = decode 0x070#12 ∧ decode 0x580#12 = decode 0x5F0#12 ∧
      decode 0x65A#12 = decode 0x670#12 ∧ decode 0x50F#12 = decode 0x500#12 ∧ decode 0x40F#12 = decode 0x400#12 := by decide

/-- 95_test_vectors.md section 5: operation errors, state unchanged, status 1. -/
theorem test_invalid_operation :
    afterWord background 0xE00 = some (background, .raised .invalidOperation) ∧
      afterWord background 0xFFF = some (background, .raised .invalidOperation) ∧
      afterWord background 0xF69 = some (background, .raised .invalidOperation) := by decide

/-- 95_test_vectors.md section 5: selector errors, state unchanged, status 2. -/
theorem test_invalid_selector :
    afterWord background 0x060 = some (background, .raised .invalidRegisterSelector) ∧
      afterWord background 0x5E0 = some (background, .raised .invalidRegisterSelector) ∧
      afterWord background 0xCE9 = some (background, .raised .invalidRegisterSelector) := by decide

/-- 95_test_vectors.md section 5: position errors, state unchanged, status 3. -/
theorem test_invalid_position :
    afterWord background 0xC88 = some (background, .raised .invalidBitPosition) ∧
      afterWord background 0xD0F = some (background, .raised .invalidBitPosition) ∧
      afterWord background 0xDFA = some (background, .raised .invalidBitPosition) := by decide

/-- The status codes (R236). -/
theorem test_status_codes :
    ExStatus.ok.code = 0 ∧ (ExStatus.raised .invalidOperation).code = 1 ∧
      (ExStatus.raised .invalidRegisterSelector).code = 2 ∧ (ExStatus.raised .invalidBitPosition).code = 3 := by
  decide

/-- Both enables in one step have no meaning (R104). -/
theorem test_both_enables_refused :
    step (State.initial background [{ PortInputs.execute 0x070 with wrEn := true }]) =
      .refused .simultaneousRequests := rfl

/-- The outputs show the pairs (R102). -/
theorem test_outputs :
    (State.initial background []).outputs.afO = 0x11A0 ∧ (State.initial background []).outputs.hlO = 0x6677 := by
  decide

/-- From reset, a presented word runs as the first instruction, whatever INIT_STATE is. -/
theorem test_first_instruction_after_reset :
    (match step (State.reset.withFetchWord 16 0x2F0) with
      | .next t => some (t.rf.a, t.rf.f.z, t.exStatus)
      | .fault _ => none
      | .refused _ => none) = some (State.reset.rf.a ^^^ State.reset.rf.a, isZero (State.reset.rf.a ^^^ State.reset.rf.a), .ok) := rfl

/-! ### A witness for the hypotheses of each statement that has any

For each statement of Certificates/Slice0/Obligations.lean with hypotheses, a concrete state and
operands that meet all of them together, at a boundary of each clause's range. -/

open Sys2Proof.Statements

/-- A state that will execute `ADC c` next, then write BC. -/
def busy : State := State.initial background [PortInputs.execute 0x090, PortInputs.setPair .bc 0x1234]

/-- `busy` with B, Z, N and H changed, none of which `ADC c` reads. -/
def busyOther : State :=
  State.initial { background with b := 0x99, f := znhc 0b0100 } [PortInputs.execute 0x090]

theorem witness_AccumulatorRotatesDifferOnlyInZ :
    (Instr.rr .a, Instr.rra) ∈
      [(Instr.rlc .a, Instr.rlca), (.rrc .a, .rrca), (.rl .a, .rla), (.rr .a, .rra)] := by decide

theorem witness_RotatesHoldForEveryCount :
    (∃ n : Nat, 1 ≤ n ∧ n ≤ 7 ∧ n = 4 ∧ 7 < 8) ∧ (∃ n : Nat, 1 ≤ n ∧ n ≤ 7 ∧ n = 1) ∧
      (∃ n : Nat, 1 ≤ n ∧ n ≤ 7 ∧ n = 7) := ⟨⟨4, by decide⟩, ⟨1, by decide⟩, ⟨7, by decide⟩⟩

theorem witness_BitOperationLaws : (7 : Fin 8) ≠ 0 := by decide

theorem witness_PairsRoundTrip : Pair.hl ≠ .af := by decide

theorem witness_RegisterWriteChangesOnlyItsByteOfItsPair : Pair.af ≠ (pairPlace .l).1 := by decide

theorem witness_DecodeEncodeIsIdentity :
    (Instr.set 7 .l).wellFormed = true ∧ (Instr.bit 0 .a).wellFormed = true := by decide

theorem witness_DecodeDropsOnlyIgnoredFields :
    (decode 0xCF7#12 = .ok (.bit 7 .a) ∧ ¬(11 ≤ (0xCF7#12).toNat / 128 ∧ (0xCF7#12).toNat / 128 ≤ 17) ∧
      25 ≤ (0xCF7#12).toNat / 128) ∧
    (decode 0x55F#12 = .ok (.addhl .l) ∧ ¬(11 ≤ (0x55F#12).toNat / 128 ∧ (0x55F#12).toNat / 128 ≤ 17)) := by
  decide

theorem witness_UnassignedCodesAreInvalidOperation :
    28 ≤ (0xE00#12).toNat / 128 ∧ 28 ≤ (0xFFF#12).toNat / 128 := by decide

theorem witness_SelectorSixIsInvalidRegisterSelector :
    ((0x060#12).toNat / 128 ≤ 27 ∧ (0x060#12).toNat / 16 % 8 = 6) ∧
      ((0xDE9#12).toNat / 128 ≤ 27 ∧ (0xDE9#12).toNat / 16 % 8 = 6) := by decide

theorem witness_LargePositionsAreInvalidBitPosition :
    (25 ≤ (0xC88#12).toNat / 128 ∧ (0xC88#12).toNat / 128 ≤ 27 ∧ (0xC88#12).toNat / 16 % 8 ≠ 6 ∧
      8 ≤ (0xC88#12).toNat % 16) ∧
    (25 ≤ (0xDFF#12).toNat / 128 ∧ (0xDFF#12).toNat / 128 ≤ 27 ∧ (0xDFF#12).toNat / 16 % 8 ≠ 6 ∧
      8 ≤ (0xDFF#12).toNat % 16) := by decide

theorem witness_StepRunsTheDecodedInstruction :
    ∃ p rest, busy.inputs = p :: rest ∧ p.exEn = true ∧ p.wrEn = false ∧ decode p.exInsn = .ok (.adc .c) :=
  ⟨_, _, rfl, rfl, rfl, by decide⟩

theorem witness_PresentedTableWordRunsNext : decodeTableWord 16 0xDF4 = some (.set 4 .a) := by decide

theorem witness_ErrorStepChangesNoRegisterOrFlag :
    ∃ p rest, (State.initial background [PortInputs.execute 0xC88]).inputs = p :: rest ∧ p.exEn = true ∧
      p.wrEn = false ∧ decode p.exInsn = .error .invalidBitPosition :=
  ⟨_, _, rfl, rfl, rfl, by decide⟩

theorem witness_SetPairStepWritesTheNamedPair :
    ∀ pair ∈ [Pair.bc, .de, .hl, .af],
      ∃ p rest, (State.initial background [PortInputs.setPair pair 0xABCD]).inputs = p :: rest ∧
        p.exEn = false ∧ p.wrEn = true ∧ p.wrPair.toNat = pair.code.toNat :=
  fun _ _ => ⟨_, _, rfl, rfl, rfl, rfl⟩

theorem witness_IdleStepChangesNoRegisterOrFlag :
    (∀ p ∈ (State.initial background []).inputs.head?, p.exEn = false ∧ p.wrEn = false) ∧
      (∀ p ∈ (State.initial background [{ PortInputs.execute 0xFFF with exEn := false }]).inputs.head?,
        p.exEn = false ∧ p.wrEn = false) := by decide

theorem witness_StepKeepsHostContract : busy.hostKeepsContract ∧ ∃ t, step busy = .next t :=
  ⟨by unfold State.hostKeepsContract; decide, _, rfl⟩

theorem witness_ContractRunsAreSafe : busy.hostKeepsContract := by
  unfold State.hostKeepsContract; decide

theorem witness_BootDeterminesTheRegisterFile :
    [Pair.hl, .bc, .af, .de].Perm [.af, .bc, .de, .hl] ∧
      (State.initial background
        ([Pair.hl, .bc, .af, .de].map (fun p => PortInputs.setPair p 0xABCD) ++ busy.inputs)).inputs =
        [Pair.hl, .bc, .af, .de].map (fun p => PortInputs.setPair p 0xABCD) ++ busy.inputs :=
  ⟨by decide, rfl⟩

theorem witness_LaterInputsHaveNoEffect :
    ∃ p rest t, busy.inputs = p :: rest ∧ step busy = .next t := ⟨_, _, _, rfl, rfl⟩

theorem witness_NoWriteOutsideTheCommitTarget :
    (∃ t, exec (.addhl .h) busy = .next t) ∧ Reg8.a ∉ writtenBy (.addhl .h) := ⟨⟨_, rfl⟩, by decide⟩

theorem witness_UnaffectedFlagsKeepTheirValues :
    ((∃ t, exec .cpl busy = .next t) ∧ writesZ .cpl = false ∧ writesC .cpl = false) ∧
      ((∃ t, exec (.res 7 .b) busy = .next t) ∧ writesNH (.res 7 .b) = false) :=
  ⟨⟨⟨_, rfl⟩, by decide⟩, ⟨_, rfl⟩, by decide⟩

theorem witness_ResultsDependOnlyOnWhatIsRead :
    (Instr.adc .c).wellFormed = true ∧ (∀ x ∈ readBy (.adc .c), busy.rf.read x = busyOther.rf.read x) ∧
      readsCarry (.adc .c) = true ∧ busy.rf.f.c = busyOther.rf.f.c ∧
      writesZ (.adc .c) = true ∧ writesNH (.adc .c) = true ∧ writesC (.adc .c) = true ∧
      (∃ t, exec (.adc .c) busy = .next t) ∧ ∃ t, exec (.adc .c) busyOther = .next t :=
  ⟨by decide, by decide, by decide, by decide, by decide, by decide, by decide, ⟨_, rfl⟩, _, rfl⟩

theorem witness_CarryIsReadByExactlyItsReaders :
    (Instr.rla).wellFormed = true ∧ writesNH .rla = true ∧ (Instr.cp .b).wellFormed = true ∧
      writesZ (.cp .b) = true ∧ (∃ t, exec (.cp .b) busy = .next t) ∧
      ∃ t, exec (.cp .b) { busy with rf := busy.rf.writeFlags ⟨false, true, false, busy.rf.f.c⟩ } = .next t :=
  ⟨by decide, by decide, by decide, by decide, ⟨_, rfl⟩, _, rfl⟩

end Sys2Proof.Tests
end

section
/-! PROOFS. The flag codec and the pair views (spec 10_state.md sections 3 and 4): the byte and the
pair as numbers, the two bytes of a pair as quotient and remainder, and the round trips. -/

namespace Sys2Proof.Machine

/-! ### The flag codec -/

/-- The flag byte as a number (R26). -/
theorem toNat_encodeFlags (f : Flags) :
    (encodeFlags f).toNat =
      (if f.z then 128 else 0) + (if f.n then 64 else 0) + (if f.h then 32 else 0) + (if f.c then 16 else 0) := by
  obtain ⟨z, n, h, c⟩ := f
  revert z n h c
  decide

/-- Bits 3 to 0 of the flag byte are 0 (R26). -/
theorem toNat_encodeFlags_mod_16 (f : Flags) : (encodeFlags f).toNat % 16 = 0 := by
  rw [toNat_encodeFlags]
  split_ifs <;> rfl

@[simp] theorem decodeFlags_encodeFlags (f : Flags) : decodeFlags (encodeFlags f) = f := by
  obtain ⟨z, n, h, c⟩ := f
  revert z n h c
  decide

theorem getElem_flagByte (b : Bool) (k : Nat) (hk : k < 8) : (flagByte b)[k] = (decide (k = 0) && b) := by
  cases b <;> simp [flagByte]

/-- Decoding a byte and encoding it again clears bits 3 to 0. -/
theorem encodeFlags_decodeFlags (x : Byte) : encodeFlags (decodeFlags x) = x &&& 0xF0#8 := by
  ext k hk
  interval_cases k <;> simp [encodeFlags, decodeFlags, getElem_flagByte]

/-! ### The bytes of a pair -/

theorem toNat_zext16 (x : Byte) : (zext16 x).toNat = x.toNat := BitVec.toNat_setWidth_of_le (by decide)

theorem toNat_pairOf (x y : Byte) : (pairOf x y).toNat = x.toNat * 256 + y.toNat := by
  have hy : y.toNat < 2 ^ 8 := y.isLt
  have hfits : x.toNat <<< 8 < 2 ^ 16 := by
    have hx := x.isLt
    rw [Nat.shiftLeft_eq]
    omega
  rw [pairOf, BitVec.toNat_or, BitVec.toNat_shiftLeft, toNat_zext16, toNat_zext16,
    Nat.mod_eq_of_lt hfits, ← Nat.shiftLeft_add_eq_or_of_lt hy, Nat.shiftLeft_eq]

theorem hi_eq_ofNat_div (v : PairWord) : hi v = BitVec.ofNat 8 (v.toNat / 256) := by
  rw [hi, BitVec.extractLsb', Nat.shiftRight_eq_div_pow]

theorem lo_eq_ofNat_mod (v : PairWord) : lo v = BitVec.ofNat 8 (v.toNat % 256) := by
  apply BitVec.eq_of_toNat_eq
  simp [lo]

/-- A pair is masked byte by byte. -/
theorem pairOf_and_pairOf (x y x' y' : Byte) :
    pairOf x y &&& pairOf x' y' = pairOf (x &&& x') (y &&& y') := by
  rw [← pairOf_hi_lo (pairOf x y &&& pairOf x' y')]
  congr 1
  · rw [hi, BitVec.extractLsb'_and, ← hi, ← hi, hi_pairOf, hi_pairOf]
  · rw [lo, BitVec.extractLsb'_and, ← lo, ← lo, lo_pairOf, lo_pairOf]

theorem and_0xFFF0_eq_pairOf (v : PairWord) : v &&& 0xFFF0#16 = pairOf (hi v) (lo v &&& 0xF0#8) := by
  calc v &&& 0xFFF0#16
      = pairOf (hi v) (lo v) &&& pairOf 0xFF#8 0xF0#8 := by rw [pairOf_hi_lo]; rfl
    _ = pairOf (hi v &&& 0xFF#8) (lo v &&& 0xF0#8) := pairOf_and_pairOf ..
    _ = pairOf (hi v) (lo v &&& 0xF0#8) := by rw [show 0xFF#8 = BitVec.allOnes 8 from rfl, BitVec.and_allOnes]

/-! ### The statements -/

/-- Settles O26: the encoder by its sixteen records, the decoder bit by bit as a digit of the byte. -/
theorem flagByteBits : Obligations.FlagByteBits := by
  refine ⟨toNat_encodeFlags, fun b => ?_⟩
  simp only [decodeFlags, BitVec.getLsbD, Nat.testBit_eq_decide_div_mod_eq, Nat.reducePow]

/-- Settles O28: every pair is `pairOf` of its two bytes, and AF's low nibble is the flag byte's. -/
theorem getPairComposesHighAndLow : Obligations.GetPairComposesHighAndLow := by
  intro rf
  have haf : (rf.getPair .af).toNat = rf.a.toNat * 256 + (encodeFlags rf.f).toNat := toNat_pairOf ..
  refine ⟨haf, toNat_pairOf .., toNat_pairOf .., toNat_pairOf .., ?_⟩
  have hlow := toNat_encodeFlags_mod_16 rf.f
  omega

/-- Settles O29: the two halves `setPair` writes are the quotient and the remainder by 256. -/
theorem setPairWritesBothHalves : Obligations.SetPairWritesBothHalves := by
  intro rf v
  simp only [← hi_eq_ofNat_div, ← lo_eq_ofNat_mod]
  exact ⟨rfl, rfl, rfl, rfl⟩

/-- Settles O30: a pair of two registers is put together from the two halves it was split into, and AF's
low half goes through the codec, which masks it. -/
theorem pairsRoundTrip : Obligations.PairsRoundTrip := by
  refine fun rf v => ⟨fun p hp => ?_, ?_⟩
  · cases p with
    | af => exact absurd rfl hp
    | bc | de | hl => exact pairOf_hi_lo v
  · calc (rf.setPair .af v).getPair .af
        = pairOf (hi v) (encodeFlags (decodeFlags (lo v))) := rfl
      _ = pairOf (hi v) (lo v &&& 0xF0#8) := by rw [encodeFlags_decodeFlags]
      _ = v &&& 0xFFF0#16 := (and_0xFFF0_eq_pairOf v).symm

end Sys2Proof.Machine
end

section
/-! PROOFS. What an instruction's result depends on (spec 10_state.md section 7): the one engine result
each instruction commits, as a function of the register file and of the flag record, and which of the
four flags it looks at. -/

namespace Sys2Proof.Machine
open Sys2Proof.Statements

/-! ### The engine result of an instruction -/

/-- What the engine of `i` computes from the registers of `rf` and the flag record `f`
(`exec_eq_commit_engineOf` ties it to `exec`). -/
def engineOf (i : Instr) (rf : RegFile) (f : Flags) : EngineResult :=
  match i with
  | .add r => addEngine (rf.read .a) (rf.read r) f
  | .adc r => adcEngine (rf.read .a) (rf.read r) f
  | .sub r | .cp r => subEngine (rf.read .a) (rf.read r) f
  | .sbc r => sbcEngine (rf.read .a) (rf.read r) f
  | .and r => andEngine (rf.read .a) (rf.read r) f
  | .xor r => xorEngine (rf.read .a) (rf.read r) f
  | .or r => orEngine (rf.read .a) (rf.read r) f
  | .inc r => incEngine (rf.read r) f
  | .dec r => decEngine (rf.read r) f
  | .addhl r => addhlEngine (rf.read r) (rf.read .h) (rf.read .l) f
  | .cpl => cplEngine (rf.read .a) f
  | .scf => scfEngine (rf.read .a) f
  | .ccf => ccfEngine (rf.read .a) f
  | .rlca => rlcaEngine Config.rotN (rf.read .a) f
  | .rrca => rrcaEngine Config.rotN (rf.read .a) f
  | .rla => rlaEngine (rf.read .a) f
  | .rra => rraEngine (rf.read .a) f
  | .rlc r => rlcEngine Config.rotN (rf.read r) f
  | .rrc r => rrcEngine Config.rotN (rf.read r) f
  | .rl r => rlEngine (rf.read r) f
  | .rr r => rrEngine (rf.read r) f
  | .sla r => slaEngine (rf.read r) f
  | .srl r => srlEngine (rf.read r) f
  | .swap r => swapEngine (rf.read r) f
  | .bit pos r => bitEngine pos.toNat (rf.read r) f
  | .res pos r => resEngine pos.toNat (rf.read r) f
  | .set pos r => setEngine pos.toNat (rf.read r) f

/-- A well-formed instruction commits its engine's result, and nothing else happens. -/
theorem exec_eq_commit_engineOf (i : Instr) (s : State) (h : i.wellFormed = true) :
    exec i s = .next (s.commit (commitTarget i.tag) i.selected (engineOf i s.rf s.rf.f)) := by
  cases i with
  | bit pos r => exact runBit_legal .bit r s bitEngine pos h
  | res pos r => exact runBit_legal .res r s resEngine pos h
  | set pos r => exact runBit_legal .set r s setEngine pos h
  | _ => rfl

/-- Writing F changes no register the engine is given. -/
@[simp] theorem engineOf_writeFlags (i : Instr) (rf : RegFile) (g f : Flags) :
    engineOf i (rf.writeFlags g) f = engineOf i rf f := by
  simp only [engineOf, RegFile.read_writeFlags]

theorem RegFile.commit_writeFlags (rf : RegFile) (g : Flags) (t : CommitTarget) (r : Reg8) (v : Byte) :
    (rf.writeFlags g).commit t r v = (rf.commit t r v).writeFlags g := by
  cases t with
  | s => cases r <;> rfl
  | a | hl | none => rfl

/-! ### The flags an engine result copies and the flags it depends on -/

/-- Every flag `i` leaves unaffected is `f`'s in the engine result `e`. -/
structure KeepsUnwrittenFlags (i : Instr) (f : Flags) (e : EngineResult) : Prop where
  z : writesZ i = false → e.flags.z = f.z
  n : writesNH i = false → e.flags.n = f.n
  h : writesNH i = false → e.flags.h = f.h
  c : writesC i = false → e.flags.c = f.c

/-- Two engine results of `i` agree in the byte and in every flag `i` writes. -/
structure AgreeOnWritten (i : Instr) (e e' : EngineResult) : Prop where
  res : e.res = e'.res
  z : writesZ i = true → e.flags.z = e'.flags.z
  n : writesNH i = true → e.flags.n = e'.flags.n
  h : writesNH i = true → e.flags.h = e'.flags.h
  c : writesC i = true → e.flags.c = e'.flags.c

theorem AgreeOnWritten.refl (i : Instr) (e : EngineResult) : AgreeOnWritten i e e :=
  ⟨rfl, fun _ => rfl, fun _ => rfl, fun _ => rfl, fun _ => rfl⟩

theorem engineOf_keepsUnwrittenFlags (i : Instr) (rf : RegFile) (f : Flags) :
    KeepsUnwrittenFlags i f (engineOf i rf f) := by
  cases i with
  | inc | dec | bit => exact ⟨nofun, nofun, nofun, fun _ => rfl⟩
  | cpl => exact ⟨fun _ => rfl, nofun, nofun, fun _ => rfl⟩
  | scf | ccf | rlca | rrca | rla | rra => exact ⟨fun _ => rfl, nofun, nofun, nofun⟩
  | res | set => exact ⟨fun _ => rfl, fun _ => rfl, fun _ => rfl, fun _ => rfl⟩
  | _ => exact ⟨nofun, nofun, nofun, nofun⟩

/-- The non-interference of R38: what an instruction computes depends on no flag but C, and on C only
in the seven that read it. -/
theorem engineOf_agreeOnWritten (i : Instr) (rf : RegFile) (f f' : Flags)
    (h : readsCarry i = true → f.c = f'.c) : AgreeOnWritten i (engineOf i rf f) (engineOf i rf f') := by
  cases i with
  | adc | sbc | rl | rr =>
    have hc : f.c = f'.c := h rfl
    simp only [engineOf, adcEngine, sbcEngine, rlEngine, rrEngine, hc]
    exact .refl ..
  | rla | rra | ccf =>
    have hc : f.c = f'.c := h rfl
    simp only [engineOf, rlaEngine, rraEngine, accRotateResult, ccfEngine, hc]
    exact ⟨rfl, nofun, fun _ => rfl, fun _ => rfl, fun _ => rfl⟩
  | inc | dec | bit => exact ⟨rfl, fun _ => rfl, fun _ => rfl, fun _ => rfl, nofun⟩
  | cpl => exact ⟨rfl, nofun, fun _ => rfl, fun _ => rfl, nofun⟩
  | scf | rlca | rrca => exact ⟨rfl, nofun, fun _ => rfl, fun _ => rfl, fun _ => rfl⟩
  | res | set => exact ⟨rfl, nofun, nofun, nofun, nofun⟩
  | _ => exact .refl ..

/-! ### Two runs of one instruction that differ in F alone -/

/-- The same state with the flag record `g`. -/
def State.withFlags (s : State) (g : Flags) : State := { s with rf := s.rf.writeFlags g }

/-- The two next states of an instruction run with the flags as they are and with the flags `g`: their
flag records are the engine's, and their registers are alike when the engine's two results are. -/
theorem exec_withFlags {i : Instr} {s t t' : State} {g : Flags} (hwf : i.wellFormed = true)
    (ht : exec i s = .next t) (ht' : exec i (s.withFlags g) = .next t') :
    t.rf.f = (engineOf i s.rf s.rf.f).flags ∧ t'.rf.f = (engineOf i s.rf g).flags ∧
      ((engineOf i s.rf s.rf.f).res = (engineOf i s.rf g).res → ∀ x, t.rf.read x = t'.rf.read x) := by
  rw [exec_eq_commit_engineOf i _ hwf, Host.Outcome.next.injEq] at ht ht'
  subst ht ht'
  simp only [State.withFlags, State.commit_rf, RegFile.writeFlags_f, engineOf_writeFlags,
    RegFile.commit_writeFlags, RegFile.read_writeFlags, true_and]
  intro hres x
  rw [hres]

/-- A flag is alike after two runs when it is written alike, or kept from two records that agree on it. -/
theorem flag_eq_of_written_or_kept {written x y old old' : Bool} (hw : written = true → x = y)
    (hx : written = false → x = old) (hy : written = false → y = old')
    (h : written = true ∨ old = old') : x = y := by
  cases written with
  | true => exact hw rfl
  | false => rw [hx rfl, hy rfl, h.resolve_left Bool.false_ne_true]

/-- Two next states `t` and `t'` of `i`, run with the flag records `f` and `f'`, have the same registers,
and the same flags but those that `i` keeps and on which `f` and `f'` differ. -/
structure DifferInKeptFlagsOnly (i : Instr) (f f' : Flags) (t t' : State) : Prop where
  read : ∀ x, t.rf.read x = t'.rf.read x
  z : writesZ i = true ∨ f.z = f'.z → t.rf.f.z = t'.rf.f.z
  n : writesNH i = true ∨ f.n = f'.n → t.rf.f.n = t'.rf.f.n
  h : writesNH i = true ∨ f.h = f'.h → t.rf.f.h = t'.rf.f.h
  c : writesC i = true ∨ f.c = f'.c → t.rf.f.c = t'.rf.f.c

/-- Changing flags shows nowhere but in the flags that are kept, as long as a reader of C gets the same
C. -/
theorem exec_withFlags_differInKeptFlagsOnly {i : Instr} {s t t' : State} {g : Flags}
    (hwf : i.wellFormed = true) (hc : readsCarry i = true → s.rf.f.c = g.c)
    (ht : exec i s = .next t) (ht' : exec i (s.withFlags g) = .next t') :
    DifferInKeptFlagsOnly i s.rf.f g t t' := by
  obtain ⟨hf, hf', hread⟩ := exec_withFlags hwf ht ht'
  have agree := engineOf_agreeOnWritten i s.rf s.rf.f g hc
  have kept := engineOf_keepsUnwrittenFlags i s.rf s.rf.f
  have kept' := engineOf_keepsUnwrittenFlags i s.rf g
  refine ⟨hread agree.res, ?_, ?_, ?_, ?_⟩ <;> rw [hf, hf']
  · exact flag_eq_of_written_or_kept agree.z kept.z kept'.z
  · exact flag_eq_of_written_or_kept agree.n kept.n kept'.n
  · exact flag_eq_of_written_or_kept agree.h kept.h kept'.h
  · exact flag_eq_of_written_or_kept agree.c kept.c kept'.c

/-! ### The readers of C -/

/-- The change from `t` to `t'` is visible: a register, Z, N or H differs, or C where `i` writes it. -/
def DifferVisibly (i : Instr) (t t' : State) : Prop :=
  (∃ x, t.rf.read x ≠ t'.rf.read x) ∨ t.rf.f.z ≠ t'.rf.f.z ∨ t.rf.f.n ≠ t'.rf.f.n ∨
    t.rf.f.h ≠ t'.rf.f.h ∨ (writesC i = true ∧ t.rf.f.c ≠ t'.rf.f.c)

/-- A state with every register 0 and every flag clear. -/
def clearState : State :=
  { rf := { a := 0, b := 0, c := 0, d := 0, e := 0, h := 0, l := 0
            f := { z := false, n := false, h := false, c := false } }
    inputs := []
    exStatus := .ok
    freeIdx := 0 }

/-- From the clear state a reader of C shows it: ADC, SBC, RL and RR by the zero result, RLA and RRA in A,
CCF in C. -/
theorem exists_differVisibly_of_readsCarry (i : Instr) (h : readsCarry i = true) :
    ∃ t t', exec i clearState = .next t ∧
      exec i (clearState.withFlags { clearState.rf.f with c := true }) = .next t' ∧
      DifferVisibly i t t' := by
  cases i with
  | adc r | sbc r | rl r | rr r => exact ⟨_, _, rfl, rfl, .inr (.inl (by cases r <;> decide))⟩
  | rla | rra => exact ⟨_, _, rfl, rfl, .inl ⟨.a, by decide⟩⟩
  | ccf => exact ⟨_, _, rfl, rfl, .inr (.inr (.inr (.inr (by decide))))⟩
  | _ => exact absurd h Bool.false_ne_true

/-- An instruction that does not read C shows no change of C alone. -/
theorem not_differVisibly_of_not_readsCarry {i : Instr} {s t t' : State} {c : Bool}
    (hwf : i.wellFormed = true) (h : readsCarry i = false) (ht : exec i s = .next t)
    (ht' : exec i (s.withFlags { s.rf.f with c := c }) = .next t') : ¬ DifferVisibly i t t' := by
  have hc : readsCarry i = true → s.rf.f.c = c := fun hr => absurd (h.symm.trans hr) Bool.false_ne_true
  have same := exec_withFlags_differInKeptFlagsOnly hwf hc ht ht'
  rintro (⟨x, hx⟩ | hz | hn | hh | ⟨hwc, hcc⟩)
  · exact hx (same.read x)
  · exact hz (same.z (.inr rfl))
  · exact hn (same.n (.inr rfl))
  · exact hh (same.h (.inr rfl))
  · exact hcc (same.c (.inl hwc))

/-- R38 for C: the readers are the instructions in which a change of C alone can be seen. -/
theorem readsCarry_iff_exists_differVisibly (i : Instr) (hwf : i.wellFormed = true) :
    readsCarry i = true ↔ ∃ (s t t' : State) (c : Bool), exec i s = .next t ∧
      exec i (s.withFlags { s.rf.f with c := c }) = .next t' ∧ DifferVisibly i t t' := by
  constructor
  · intro h
    obtain ⟨t, t', hrun⟩ := exists_differVisibly_of_readsCarry i h
    exact ⟨clearState, t, t', true, hrun⟩
  · rintro ⟨s, t, t', c, ht, ht', hdiff⟩
    by_contra h
    exact not_differVisibly_of_not_readsCarry hwf (Bool.eq_false_of_not_eq_true h) ht ht' hdiff

/-- The host reads all four flags from the flag byte and from AF. -/
theorem decodeFlags_outputs (s : State) :
    decodeFlags s.outputs.fO = s.rf.f ∧ decodeFlags (lo s.outputs.afO) = s.rf.f := by
  simp [State.outputs, RegFile.getPair]

/-- Settles O57: by the engine result of each instruction, which depends on C in the seven readers and on
no flag otherwise; the readers are shown by a run from the clear state with C clear and with C set. -/
theorem carryIsReadByExactlyItsReaders : Obligations.CarryIsReadByExactlyItsReaders := by
  refine ⟨readsCarry_iff_exists_differVisibly, fun i s t t' z n h hwf ht ht' => ?_, decodeFlags_outputs⟩
  have same := exec_withFlags_differInKeptFlagsOnly (g := { z := z, n := n, h := h, c := s.rf.f.c })
    hwf (fun _ => rfl) ht ht'
  exact ⟨same.read, same.c (.inr rfl), fun hz => same.z (.inl hz),
    fun hnh => ⟨same.n (.inl hnh), same.h (.inl hnh)⟩⟩

end Sys2Proof.Machine
end

section
/-! PROOFS. Mixed-width access (spec 20_memory.md R53): a register is one byte of the pair that contains
it, and writing it replaces that byte of that pair alone. -/

namespace Sys2Proof.Machine
open Sys2Proof.Statements

/-! ### The bytes of a pair as numbers -/

theorem toNat_hi (v : PairWord) : (hi v).toNat = v.toNat / 256 := by
  rw [hi_eq_ofNat_div, BitVec.toNat_ofNat]
  exact Nat.mod_eq_of_lt (Nat.div_lt_of_lt_mul v.isLt)

theorem toNat_lo (v : PairWord) : (lo v).toNat = v.toNat % 256 := by
  rw [lo_eq_ofNat_mod, BitVec.toNat_ofNat]
  exact Nat.mod_mod ..

/-! ### A register in its pair -/

theorem RegFile.read_eq_byte_getPair (rf : RegFile) (r : Reg8) :
    rf.read r = if (pairPlace r).2 then hi (rf.getPair (pairPlace r).1)
      else lo (rf.getPair (pairPlace r).1) := by
  cases r with
  | a | b | d | h => exact (hi_pairOf ..).symm
  | c | e | l => exact (lo_pairOf ..).symm

/-- The pair that contains `r` after a write to `r`: the other byte is the old one. -/
theorem RegFile.getPair_write (rf : RegFile) (r : Reg8) (v : Byte) :
    (rf.write r v).getPair (pairPlace r).1 =
      if (pairPlace r).2 then pairOf v (lo (rf.getPair (pairPlace r).1))
      else pairOf (hi (rf.getPair (pairPlace r).1)) v := by
  cases r with
  | a | b | d | h => exact congrArg (pairOf v) (lo_pairOf ..).symm
  | c | e | l => exact congrArg (pairOf · v) (hi_pairOf ..).symm

/-- A write to `r` leaves every pair alone that does not contain `r`. -/
theorem RegFile.getPair_write_of_ne (rf : RegFile) {r : Reg8} (v : Byte) {p : Pair}
    (h : p ≠ (pairPlace r).1) : (rf.write r v).getPair p = rf.getPair p := by
  cases p with
  | af => cases r with
    | a => exact absurd rfl h
    | _ => rfl
  | bc => cases r with
    | b | c => exact absurd rfl h
    | _ => rfl
  | de => cases r with
    | d | e => exact absurd rfl h
    | _ => rfl
  | hl => cases r with
    | h | l => exact absurd rfl h
    | _ => rfl

/-- Settles O31: the place of a register in its pair, read as a byte and as a quotient or remainder by
256, before the write and after it. -/
theorem registerWriteChangesOnlyItsByteOfItsPair :
    Obligations.RegisterWriteChangesOnlyItsByteOfItsPair := by
  intro rf r v
  refine ⟨?_, ?_, ?_, fun p hp => rf.getPair_write_of_ne v hp⟩
  · rw [rf.read_eq_byte_getPair, apply_ite BitVec.toNat, toNat_hi, toNat_lo]
  · rw [← toNat_lo, RegFile.getPair, lo_pairOf]
  · rw [rf.getPair_write, apply_ite BitVec.toNat, toNat_pairOf, toNat_pairOf, toNat_hi, toNat_lo]

end Sys2Proof.Machine
end

section
/-! PROOFS. What the statements of the instruction families share: the word of an instruction as a number
(spec 30_encoding.md R71) and how it decodes, and the frame of a commit (40_dispatch.md R106). -/

namespace Sys2Proof

/-! ### A word as a number -/

/-- A word as a number is its three fields at their places (R71). -/
theorem toNat_eq_fields (w : InsnWord) :
    w.toNat = (opField w).toNat * 128 + (selField w).toNat * 16 + (posField w).toNat := by
  have hw : w.toNat < 4096 := w.isLt
  simp only [opField, selField, posField, BitVec.extractLsb'_toNat, Nat.shiftRight_eq_div_pow]
  omega

theorem toNat_wordOf (op : BitVec 5) (sel : BitVec 3) (pos : BitVec 4) :
    (wordOf op sel pos).toNat = op.toNat * 128 + sel.toNat * 16 + pos.toNat := by
  simpa only [opField_wordOf, selField_wordOf, posField_wordOf] using toNat_eq_fields (wordOf op sel pos)

theorem ofNat_fields_eq_wordOf (op : BitVec 5) (sel : BitVec 3) (pos : BitVec 4) :
    BitVec.ofNat 12 (op.toNat * 128 + sel.toNat * 16 + pos.toNat) = wordOf op sel pos := by
  rw [← toNat_wordOf, BitVec.ofNat_toNat, BitVec.setWidth_eq]

/-! ### Decoding a word with an assigned operation code -/

theorem decode_wordOf (t : OpTag) (r : Reg8) (pos : BitVec 4) :
    decode (wordOf t.code r.code pos) =
      if t.usesPosition && !legalPosition pos then .error .invalidBitPosition else .ok (t.instr r pos) := by
  simp only [decode, opField_wordOf, selField_wordOf, posField_wordOf, OpTag.ofCode_code, Reg8.ofCode_code]

theorem decode_wordOf_selector_six (t : OpTag) (pos : BitVec 4) :
    decode (wordOf t.code 6 pos) = .error .invalidRegisterSelector := by
  have hsix : Reg8.ofCode 6 = none := rfl
  simp only [decode, opField_wordOf, selField_wordOf, OpTag.ofCode_code, hsix]

end Sys2Proof

namespace Sys2Proof.Machine
open Sys2Proof.Statements

/-- The encoding of an instruction `mk r` that takes a register and no position, from its operation `t`. -/
theorem encodedWithRegister (t : OpTag) {mk : Reg8 → Instr} (hpos : t.usesPosition = false)
    (hmk : ∀ r pos, t.instr r pos = mk r) (hencode : ∀ r, encode (mk r) = wordOf t.code r.code 0) :
    EncodedWithRegister t.code.toNat mk := by
  refine ⟨fun r => ?_, fun r pos => ?_, fun pos => ?_⟩
  · rw [hencode, toNat_wordOf]
    rfl
  · calc decode (BitVec.ofNat 12 (t.code.toNat * 128 + r.code.toNat * 16 + pos.val))
        = decode (wordOf t.code r.code (.ofFin pos)) := congrArg decode (ofNat_fields_eq_wordOf ..)
      _ = .ok (mk r) := by rw [decode_wordOf, hpos, hmk]; rfl
  · calc decode (BitVec.ofNat 12 (t.code.toNat * 128 + 6 * 16 + pos.val))
        = decode (wordOf t.code 6 (.ofFin pos)) := congrArg decode (ofNat_fields_eq_wordOf t.code 6 (.ofFin pos))
      _ = .error .invalidRegisterSelector := decode_wordOf_selector_six ..

/-! ### The frame of a commit -/

section Commit
variable (s : State) (r : Reg8) (e : EngineResult)

/-- A commit keeps every register that its register write keeps, and nothing but F and the status changes
besides. -/
theorem frame_commit {t : CommitTarget} {written : List Reg8}
    (h : ∀ x, x ∉ written → (s.rf.commit t r e.res).read x = s.rf.read x) :
    Frame s (s.commit t r e) written := by
  refine ⟨fun x hx => ?_, rfl, rfl, rfl⟩
  rw [State.commit_rf, RegFile.read_writeFlags, h x hx]

theorem frame_commit_acc : Frame s (s.commit .a r e) [.a] :=
  frame_commit s r e fun _ hx => RegFile.read_write_of_ne _ _ _ _ (mt List.mem_singleton.mpr hx)

theorem frame_commit_sel : Frame s (s.commit .s r e) [r] :=
  frame_commit s r e fun _ hx => RegFile.read_write_of_ne _ _ _ _ (mt List.mem_singleton.mpr hx)

@[simp] theorem num_commit_acc : num (s.commit .a r e) .a = e.res.toNat := rfl

@[simp] theorem num_commit_sel : num (s.commit .s r e) r = e.res.toNat := by
  rw [num, State.commit_rf, RegFile.read_writeFlags, RegFile.commit_sel, RegFile.read_write_same]

end Commit

end Sys2Proof.Machine
end

section
/-! PROOFS. Addition, increment and decrement (spec 41_arith.md R131, R132, R137, R138, R140): the flags
each engine computes, in numbers, and the statements. -/

namespace Sys2Proof.Machine
open Sys2Proof.Statements

/-! ### The zero test of a truncated value -/

theorem isZero_trunc8 (i : Int) : isZero (trunc8 i) = decide (i % 256 = 0) := by
  rw [isZero_eq, decide_eq_decide, ← toNat_trunc8 i, Int.natCast_eq_zero]

theorem isZero_trunc8_nat (n : Nat) : isZero (trunc8 (n : Int)) = decide (n % 256 = 0) := by
  rw [isZero_eq, toNat_trunc8_nat]

/-! ### The flags in numbers -/

theorem addEngine_flags (a v : Byte) (f : Flags) :
    (addEngine a v f).flags =
      { z := decide ((a.toNat + v.toNat) % 256 = 0), n := false
        h := decide (a.toNat % 16 + v.toNat % 16 > 15), c := decide (a.toNat + v.toNat > 255) } := by
  simp only [addEngine, isZero_trunc8_nat, nibbleCarry, lowNibble_eq, byteCarry]

theorem adcEngine_flags (a v : Byte) (f : Flags) :
    (adcEngine a v f).flags =
      { z := decide ((a.toNat + v.toNat + flagNat f.c) % 256 = 0), n := false
        h := decide (a.toNat % 16 + v.toNat % 16 + flagNat f.c > 15)
        c := decide (a.toNat + v.toNat + flagNat f.c > 255) } := by
  simp only [adcEngine, isZero_trunc8_nat, nibbleCarry, lowNibble_eq, byteCarry]

/-- INC gives zero at 255 alone. -/
theorem incEngine_flags (v : Byte) (f : Flags) :
    (incEngine v f).flags =
      { z := decide (v.toNat = 255), n := false, h := decide (v.toNat % 16 + 1 > 15), c := f.c } := by
  have hz : ((v.toNat : Int) + 1) % 256 = 0 ↔ v.toNat = 255 := by
    have hv : v.toNat < 256 := v.isLt
    omega
  simp only [incEngine, isZero_trunc8, hz, nibbleCarry, lowNibble_eq]

/-- DEC gives zero at 1 alone. -/
theorem decEngine_flags (v : Byte) (f : Flags) :
    (decEngine v f).flags =
      { z := decide (v.toNat = 1), n := true, h := decide (v.toNat % 16 = 0), c := f.c } := by
  have hz : ((v.toNat : Int) - 1) % 256 = 0 ↔ v.toNat = 1 := by
    have hv : v.toNat < 256 := v.isLt
    omega
  simp only [decEngine, isZero_trunc8, hz, lowNibble_eq]

/-! ### The statements -/

/-- Settles O1: the commit to A of the engine's result, whose byte and flags are those of the sum. -/
theorem addResultFlagsFrame : Obligations.AddResultFlagsFrame := by
  refine ⟨fun r s => ⟨s.commit .a r (addEngine (s.rf.read .a) (s.rf.read r) s.rf.f),
    exec_eq_commit_engineOf (.add r) s rfl, ?_⟩,
    encodedWithRegister .add rfl (fun _ _ => rfl) (fun _ => rfl)⟩
  rw [num_commit_acc, State.commit_rf, RegFile.writeFlags_f, addEngine_flags]
  exact ⟨toNat_trunc8_nat _, rfl, rfl, rfl, rfl, frame_commit_acc ..⟩

/-- Settles O2: as for ADD, with the old carry in all three sums. -/
theorem adcResultFlagsFrame : Obligations.AdcResultFlagsFrame := by
  refine ⟨fun r s => ⟨s.commit .a r (adcEngine (s.rf.read .a) (s.rf.read r) s.rf.f),
    exec_eq_commit_engineOf (.adc r) s rfl, ?_⟩,
    encodedWithRegister .adc rfl (fun _ _ => rfl) (fun _ => rfl)⟩
  rw [num_commit_acc, State.commit_rf, RegFile.writeFlags_f, adcEngine_flags]
  exact ⟨toNat_trunc8_nat _, rfl, rfl, rfl, rfl, frame_commit_acc ..⟩

/-- Settles O7: the commit to `r` of the engine's result. -/
theorem incResultFlagsFrame : Obligations.IncResultFlagsFrame := by
  refine ⟨fun r s => ⟨s.commit .s r (incEngine (s.rf.read r) s.rf.f),
    exec_eq_commit_engineOf (.inc r) s rfl, ?_⟩,
    encodedWithRegister .inc rfl (fun _ _ => rfl) (fun _ => rfl)⟩
  rw [num_commit_sel, State.commit_rf, RegFile.writeFlags_f, incEngine_flags]
  exact ⟨toNat_trunc8_nat _, rfl, rfl, rfl, rfl, frame_commit_sel ..⟩

/-- Settles O8: as for INC, with an integer remainder because 0 - 1 wraps. -/
theorem decResultFlagsFrame : Obligations.DecResultFlagsFrame := by
  refine ⟨fun r s => ⟨s.commit .s r (decEngine (s.rf.read r) s.rf.f),
    exec_eq_commit_engineOf (.dec r) s rfl, ?_⟩,
    encodedWithRegister .dec rfl (fun _ _ => rfl) (fun _ => rfl)⟩
  rw [num_commit_sel, State.commit_rf, RegFile.writeFlags_f, decEngine_flags]
  exact ⟨toNat_trunc8 _, rfl, rfl, rfl, rfl, frame_commit_sel ..⟩

/-- Settles O9: by the results of the two instructions (O7, O8), since adding 1 and subtracting 1 modulo
256 undo each other on a byte. -/
theorem incAndDecAreInverses : Obligations.IncAndDecAreInverses := by
  obtain ⟨inc, -⟩ := incResultFlagsFrame
  obtain ⟨dec, -⟩ := decResultFlagsFrame
  intro r s
  have hbyte : num s r < 256 := (s.rf.read r).isLt
  constructor
  · obtain ⟨t, ht, hinc, -, -, -, hct, -⟩ := inc r s
    obtain ⟨u, hu, hdec, -, -, -, hcu, -⟩ := dec r t
    have hback : num u r = num s r := by omega
    exact ⟨t, u, ht, hu, BitVec.eq_of_toNat_eq hback, hct, hcu.trans hct⟩
  · obtain ⟨t, ht, hdec, -, -, -, hct, -⟩ := dec r s
    obtain ⟨u, hu, hinc, -, -, -, hcu, -⟩ := inc r t
    have hback : num u r = num s r := by omega
    exact ⟨t, u, ht, hu, BitVec.eq_of_toNat_eq hback, hct, hcu.trans hct⟩

end Sys2Proof.Machine
end

section
/-! PROOFS. Logic and flag operations (spec 42_logic_flags.md R162, R163, R165, R166): the encoding of the
IMPLICIT class, the commit of a logic result, the commit that writes no register, and the statements. -/

namespace Sys2Proof.Machine
open Sys2Proof.Statements

/-- The encoding of an IMPLICIT instruction `i`, from its operation `t`. -/
theorem encodedImplicit (t : OpTag) {i : Instr} (hpos : t.usesPosition = false)
    (hinstr : ∀ r pos, t.instr r pos = i) (hencode : encode i = wordOf t.code Reg8.a.code 0) :
    EncodedImplicit t.code.toNat i := by
  refine ⟨?_, fun r pos => ?_, fun pos => ?_⟩
  · rw [hencode, toNat_wordOf]
    rfl
  · have hword : decode (wordOf t.code r.code (.ofFin pos)) = .ok i := by
      rw [decode_wordOf, hpos, hinstr]
      rfl
    exact (congrArg decode (ofNat_fields_eq_wordOf t.code r.code (.ofFin pos))).trans hword
  · exact (congrArg decode (ofNat_fields_eq_wordOf t.code 6 (.ofFin pos))).trans
      (decode_wordOf_selector_six ..)

section Commit
variable (s : State) (r : Reg8)

@[simp] theorem read_commit_acc (e : EngineResult) : (s.commit .a r e).rf.read .a = e.res := by
  rw [State.commit_rf, RegFile.read_writeFlags, RegFile.commit_acc, RegFile.read_write_same]

theorem frame_commit_none (e : EngineResult) : Frame s (s.commit .none r e) [] :=
  frame_commit s r e fun x _ => by rw [RegFile.commit_none]

/-- The flags after a logic result is committed to A (R161 to R163). -/
theorem flags_commit_logicResult (res : Byte) :
    (s.commit .a r (logicResult res)).rf.f =
      { z := decide (num (s.commit .a r (logicResult res)) .a = 0), n := false, h := false, c := false } := by
  rw [num_commit_acc, State.commit_rf, RegFile.writeFlags_f]
  simp only [logicResult, isZero_eq]

end Commit

/-! ### The statements -/

/-- Settles O11: both instructions commit a logic result to A, whose bits are those of `|||` and `^^^`. -/
theorem orXorResultFlagsFrame : Obligations.OrXorResultFlagsFrame := by
  refine ⟨fun r s => ⟨s.commit .a r (logicResult (s.rf.read .a ||| s.rf.read r)),
      exec_eq_commit_engineOf (.or r) s rfl, fun i => ?_, flags_commit_logicResult .., frame_commit_acc ..⟩,
    encodedWithRegister .or rfl (fun _ _ => rfl) (fun _ => rfl),
    fun r s => ⟨s.commit .a r (logicResult (s.rf.read .a ^^^ s.rf.read r)),
      exec_eq_commit_engineOf (.xor r) s rfl, fun i => ?_, flags_commit_logicResult .., frame_commit_acc ..⟩,
    encodedWithRegister .xor rfl (fun _ _ => rfl) (fun _ => rfl)⟩
  · rw [read_commit_acc]
    exact BitVec.getLsbD_or
  · rw [read_commit_acc]
    exact BitVec.getLsbD_xor

/-- Settles O13: the commit target is none, so only the engine's flags are written. -/
theorem carryControlsWriteOnlyFlags : Obligations.CarryControlsWriteOnlyFlags :=
  ⟨fun s => ⟨s.commit .none .a (scfEngine (s.rf.read .a) s.rf.f),
      exec_eq_commit_engineOf .scf s rfl, rfl, frame_commit_none ..⟩,
    encodedImplicit .scf rfl (fun _ _ => rfl) rfl,
    fun s => ⟨s.commit .none .a (ccfEngine (s.rf.read .a) s.rf.f),
      exec_eq_commit_engineOf .ccf s rfl, rfl, frame_commit_none ..⟩,
    encodedImplicit .ccf rfl (fun _ _ => rfl) rfl⟩

end Sys2Proof.Machine
end

section
/-! PROOFS. Shifts and swap (spec 43_rotate_shift.md R190 to R192): their bytes in numbers, the commit of a
shift result, and the statements. -/

namespace Sys2Proof.Machine
open Sys2Proof.Statements

/-! ### The bytes and the bits shifted out, in numbers -/

theorem toNat_shiftLeft_one (v : Byte) : (v <<< 1).toNat = v.toNat * 2 % 256 := by
  rw [BitVec.toNat_shiftLeft, Nat.shiftLeft_eq]

theorem toNat_ushiftRight_one (v : Byte) : (v >>> 1).toNat = v.toNat / 2 := by
  rw [BitVec.toNat_ushiftRight, Nat.shiftRight_eq_div_pow]

theorem getLsbD_seven_eq (v : Byte) : v.getLsbD 7 = decide (v.toNat ≥ 128) := by
  rw [BitVec.getLsbD, Nat.testBit_eq_decide_div_mod_eq, decide_eq_decide]
  have hv : v.toNat < 256 := v.isLt
  omega

theorem getLsbD_zero_eq (v : Byte) : v.getLsbD 0 = decide (v.toNat % 2 = 1) := Nat.testBit_zero ..

/-- The two nibbles do not overlap after the exchange, so `|||` adds them (R192). -/
theorem toNat_swapEngine_res (v : Byte) (f : Flags) :
    (swapEngine v f).res.toNat = v.toNat % 16 * 16 + v.toNat / 16 := by
  have hv : v.toNat < 256 := v.isLt
  have hlow : (v &&& 0xF#8).toNat = v.toNat % 16 := lowNibble_eq v
  have hfits : (v.toNat % 16) <<< 4 < 2 ^ 8 := by
    rw [Nat.shiftLeft_eq]
    omega
  have hhigh : v.toNat >>> 4 < 2 ^ 4 := by
    rw [Nat.shiftRight_eq_div_pow]
    omega
  calc (swapEngine v f).res.toNat
      = (v.toNat % 16) <<< 4 ||| v.toNat >>> 4 := by
        rw [swapEngine, shiftResult, BitVec.toNat_or, BitVec.toNat_shiftLeft, BitVec.toNat_ushiftRight, hlow,
          Nat.mod_eq_of_lt hfits]
    _ = (v.toNat % 16) <<< 4 + v.toNat >>> 4 := (Nat.shiftLeft_add_eq_or_of_lt hhigh _).symm
    _ = v.toNat % 16 * 16 + v.toNat / 16 := by rw [Nat.shiftLeft_eq, Nat.shiftRight_eq_div_pow]

/-- An exchange of nibbles loses no bit, so SWAP tests its operand for zero. -/
theorem swapEngine_flags (v : Byte) (f : Flags) :
    (swapEngine v f).flags = { z := decide (v.toNat = 0), n := false, h := false, c := false } := by
  have hz : (swapEngine v f).res.toNat = 0 ↔ v.toNat = 0 := by
    rw [toNat_swapEngine_res]
    omega
  calc (swapEngine v f).flags
      = { z := isZero (swapEngine v f).res, n := false, h := false, c := false } := rfl
    _ = { z := decide (v.toNat = 0), n := false, h := false, c := false } := by
        rw [isZero_eq, decide_eq_decide.mpr hz]

/-- The flags after a shift result is committed to `r`. -/
theorem flags_commit_shiftResult (s : State) (r : Reg8) (res : Byte) (carry : Bool) :
    (s.commit .s r (shiftResult res carry)).rf.f =
      { z := decide (num (s.commit .s r (shiftResult res carry)) r = 0), n := false, h := false, c := carry } := by
  rw [num_commit_sel, State.commit_rf, RegFile.writeFlags_f]
  simp only [shiftResult, isZero_eq]

/-! ### The statements -/

/-- Settles O18: both commit a shift result to `r`, whose byte is the double or the half and whose carry is
the bit at that end. -/
theorem slaSrlResultFlagsFrame : Obligations.SlaSrlResultFlagsFrame := by
  refine ⟨fun r s => ⟨s.commit .s r (slaEngine (s.rf.read r) s.rf.f),
      exec_eq_commit_engineOf (.sla r) s rfl, ?_, ?_, frame_commit_sel ..⟩,
    encodedWithRegister .sla rfl (fun _ _ => rfl) (fun _ => rfl),
    fun r s => ⟨s.commit .s r (srlEngine (s.rf.read r) s.rf.f),
      exec_eq_commit_engineOf (.srl r) s rfl, ?_, ?_, frame_commit_sel ..⟩,
    encodedWithRegister .srl rfl (fun _ _ => rfl) (fun _ => rfl)⟩
  · rw [num_commit_sel]
    exact toNat_shiftLeft_one _
  · rw [num, num, ← getLsbD_seven_eq]
    exact flags_commit_shiftResult ..
  · rw [num_commit_sel]
    exact toNat_ushiftRight_one _
  · rw [num, num, ← getLsbD_zero_eq]
    exact flags_commit_shiftResult ..

/-- Settles O19: the commit to `r` of the exchanged nibbles, which are 0 when the operand is. -/
theorem swapResultFlagsFrame : Obligations.SwapResultFlagsFrame := by
  refine ⟨fun r s => ⟨s.commit .s r (swapEngine (s.rf.read r) s.rf.f),
    exec_eq_commit_engineOf (.swap r) s rfl, ?_, ?_, frame_commit_sel ..⟩,
    encodedWithRegister .swap rfl (fun _ _ => rfl) (fun _ => rfl)⟩
  · rw [num_commit_sel]
    exact toNat_swapEngine_res ..
  · rw [State.commit_rf, RegFile.writeFlags_f]
    exact swapEngine_flags ..

end Sys2Proof.Machine
end

section
/-! PROOFS. BIT, RES and SET (spec 44_bit.md R211 to R214): the results of their engines bit by bit, how
the engines compose on one register, and what two such instructions in a row do. -/

namespace Sys2Proof.Machine
open Sys2Proof.Statements

/-! ### The engines bit by bit -/

section Engines
variable (p q : Fin 8) (v : Byte) (f : Flags) (i : Nat)

theorem getLsbD_bitMask : (bitMask p.val).getLsbD i = decide (i = p.val) := by
  calc (bitMask p.val).getLsbD i
      = (decide (p.val < 8) && decide (p.val = i)) := BitVec.getLsbD_twoPow ..
    _ = decide (i = p.val) := by simp only [p.isLt, decide_true, Bool.true_and, eq_comm]

theorem getLsbD_resEngine_res :
    (resEngine p.val v f).res.getLsbD i = (!decide (i = p.val) && v.getLsbD i) := by
  by_cases hi : i < 8
  · simp only [resEngine, BitVec.getLsbD_and, BitVec.getLsbD_not, getLsbD_bitMask, hi, decide_true,
      Bool.true_and, Bool.and_comm]
  · simp only [BitVec.getLsbD_of_ge _ _ (Nat.le_of_not_lt hi), Bool.and_false]

theorem getLsbD_setEngine_res :
    (setEngine p.val v f).res.getLsbD i = (decide (i = p.val) || v.getLsbD i) := by
  rw [setEngine, BitVec.getLsbD_or, getLsbD_bitMask, Bool.or_comm]

theorem isZero_bitMask : isZero (bitMask p.val) = false := by decide +revert

/-- The masked byte is either the mask, which is not 0, or 0. -/
theorem bitEngine_z : (bitEngine p.val v f).flags.z = !v.getLsbD p.val := by
  have hand : v &&& bitMask p.val = if v.getLsbD p.val then bitMask p.val else 0#8 :=
    BitVec.and_twoPow ..
  rw [bitEngine, hand]
  cases v.getLsbD p.val with
  | true => exact isZero_bitMask p
  | false => rfl

/-! ### Two engines on one register -/

theorem EngineResult.ext_bits {e e' : EngineResult}
    (hres : ∀ i, e.res.getLsbD i = e'.res.getLsbD i) (hflags : e.flags = e'.flags) : e = e' := by
  have hbyte : e.res = e'.res := BitVec.eq_of_getLsbD_eq fun i _ => hres i
  cases e
  cases e'
  exact congrArg₂ EngineResult.mk hbyte hflags

theorem resEngine_setEngine_same :
    resEngine p.val (setEngine p.val v f).res f = resEngine p.val v f := by
  refine EngineResult.ext_bits (fun i => ?_) rfl
  rw [getLsbD_resEngine_res, getLsbD_setEngine_res, getLsbD_resEngine_res, Bool.and_or_distrib_left,
    Bool.not_and_self, Bool.false_or]

theorem setEngine_resEngine_same :
    setEngine p.val (resEngine p.val v f).res f = setEngine p.val v f := by
  refine EngineResult.ext_bits (fun i => ?_) rfl
  rw [getLsbD_setEngine_res, getLsbD_resEngine_res, getLsbD_setEngine_res, Bool.or_and_distrib_left,
    Bool.or_not_self, Bool.true_and]

theorem setEngine_setEngine_same :
    setEngine p.val (setEngine p.val v f).res f = setEngine p.val v f := by
  refine EngineResult.ext_bits (fun i => ?_) rfl
  rw [getLsbD_setEngine_res, getLsbD_setEngine_res, Bool.or_self_left]

theorem resEngine_resEngine_same :
    resEngine p.val (resEngine p.val v f).res f = resEngine p.val v f := by
  refine EngineResult.ext_bits (fun i => ?_) rfl
  rw [getLsbD_resEngine_res, getLsbD_resEngine_res, Bool.and_self_left]

/-- At bit `p` SET decides in both orders, because `q` is another bit; at every other bit SET does nothing. -/
theorem resEngine_setEngine_comm (h : q ≠ p) :
    resEngine q.val (setEngine p.val v f).res f = setEngine p.val (resEngine q.val v f).res f := by
  refine EngineResult.ext_bits (fun i => ?_) rfl
  rw [getLsbD_resEngine_res, getLsbD_setEngine_res, getLsbD_setEngine_res, getLsbD_resEngine_res]
  by_cases hi : i = p.val
  · have hpq : p.val ≠ q.val := fun heq => h (Fin.ext heq.symm)
    simp only [hi, hpq, decide_true, decide_false, Bool.not_false, Bool.true_or, Bool.and_self]
  · simp only [hi, decide_false, Bool.false_or]

end Engines

/-! ### Two instructions in a row -/

section Runs
variable (t : OpTag) (g : Nat → Byte → Flags → EngineResult) (p : Fin 8) (r : Reg8) (s : State)
  (e e' : EngineResult)

@[simp] theorem read_commit_sel : (s.commit .s r e).rf.read r = e.res := by
  rw [State.commit_rf, RegFile.read_writeFlags, RegFile.commit_sel, RegFile.read_write_same]

/-- Of two commits to the same register the second alone counts. -/
@[simp] theorem commit_sel_commit_sel : (s.commit .s r e).commit .s r e' = s.commit .s r e' := by
  cases r <;> rfl

theorem runBit_ofNat :
    runBit t g (BitVec.ofNat 4 p.val) r s =
      .next (s.commit (commitTarget t) r (g p.val (s.rf.read r) s.rf.f)) := by
  have hpos : (BitVec.ofNat 4 p.val).toNat = p.val :=
    BitVec.toNat_ofNat .. |>.trans (Nat.mod_eq_of_lt (Nat.lt_trans p.isLt (by decide)))
  have hlegal : legalPosition (BitVec.ofNat 4 p.val) = true := by
    rw [legalPosition, hpos, decide_eq_true p.isLt]
  rw [runBit_legal t r s g _ hlegal, hpos]

/-- After a commit to its register a BITTEST or BITINPLACE instruction is given that commit's result. -/
theorem runBit_commit_sel :
    runBit t g (BitVec.ofNat 4 p.val) r (s.commit .s r e) =
      .next ((s.commit .s r e).commit (commitTarget t) r (g p.val e.res e.flags)) := by
  rw [runBit_ofNat, read_commit_sel, State.commit_rf, RegFile.writeFlags_f]

/-- RES or SET after a commit to its register overwrites that commit. -/
theorem runBit_sel_commit_sel (h : commitTarget t = .s) :
    runBit t g (BitVec.ofNat 4 p.val) r (s.commit .s r e) =
      .next (s.commit .s r (g p.val e.res e.flags)) := by
  rw [runBit_commit_sel, h, commit_sel_commit_sel]

/-! The executions the laws of R214 are made of, at the legal position `p`. -/

theorem exec_set : exec (.set (BitVec.ofNat 4 p.val) r) s =
    .next (s.commit .s r (setEngine p.val (s.rf.read r) s.rf.f)) :=
  runBit_ofNat .set setEngine p r s

theorem exec_res : exec (.res (BitVec.ofNat 4 p.val) r) s =
    .next (s.commit .s r (resEngine p.val (s.rf.read r) s.rf.f)) :=
  runBit_ofNat .res resEngine p r s

theorem exec_set_commit_sel : exec (.set (BitVec.ofNat 4 p.val) r) (s.commit .s r e) =
    .next (s.commit .s r (setEngine p.val e.res e.flags)) :=
  runBit_sel_commit_sel .set setEngine p r s e rfl

theorem exec_res_commit_sel : exec (.res (BitVec.ofNat 4 p.val) r) (s.commit .s r e) =
    .next (s.commit .s r (resEngine p.val e.res e.flags)) :=
  runBit_sel_commit_sel .res resEngine p r s e rfl

theorem exec_bit_commit_sel : exec (.bit (BitVec.ofNat 4 p.val) r) (s.commit .s r e) =
    .next ((s.commit .s r e).commit .none r (bitEngine p.val e.res e.flags)) :=
  runBit_commit_sel .bit bitEngine p r s e

end Runs

/-! ### The statement -/

/-- Settles O24: a pair of instructions on one register commits the composition of their engines, so each
law is the one of the engines. -/
theorem bitOperationLaws : Obligations.BitOperationLaws := by
  intro p r s pos
  refine ⟨⟨_, _, exec_set p r s, exec_res_commit_sel p r s _, ?_, ?_⟩,
    ⟨_, _, exec_res p r s, exec_set_commit_sel p r s _, ?_⟩,
    ⟨_, _, exec_set p r s, exec_set_commit_sel p r s _, ?_⟩,
    ⟨_, _, exec_res p r s, exec_res_commit_sel p r s _, ?_⟩,
    fun q hq => ⟨_, _, _, _, exec_set p r s, exec_res_commit_sel q r s _, exec_res q r s,
      exec_set_commit_sel p r s _, ?_⟩,
    ⟨_, _, exec_set p r s, exec_bit_commit_sel p r s _, ?_⟩,
    ⟨_, _, exec_res p r s, exec_bit_commit_sel p r s _, ?_⟩⟩
  · rw [read_commit_sel, getLsbD_resEngine_res, decide_eq_true rfl, Bool.not_true, Bool.false_and]
  · rw [read_commit_sel]
    exact congrArg EngineResult.res (resEngine_setEngine_same p (s.rf.read r) s.rf.f)
  · rw [read_commit_sel]
    exact congrArg EngineResult.res (setEngine_resEngine_same p (s.rf.read r) s.rf.f)
  · exact congrArg (s.commit .s r) (setEngine_setEngine_same p (s.rf.read r) s.rf.f)
  · exact congrArg (s.commit .s r) (resEngine_resEngine_same p (s.rf.read r) s.rf.f)
  · exact congrArg (s.commit .s r) (resEngine_setEngine_comm p q (s.rf.read r) s.rf.f hq)
  · rw [State.commit_rf, RegFile.writeFlags_f, bitEngine_z, getLsbD_setEngine_res, decide_eq_true rfl,
      Bool.true_or, Bool.not_true]
  · rw [State.commit_rf, RegFile.writeFlags_f, bitEngine_z, getLsbD_resEngine_res, decide_eq_true rfl,
      Bool.not_true, Bool.false_and, Bool.not_false]

end Sys2Proof.Machine
end

section
/-! PROOFS. The errors of a word (spec 60_exceptions.md R231, R233 to R235): which words decode to each, as
numbers, and that executing one raises it. -/

namespace Sys2Proof

/-! ### The fields of a word as numbers (R71) -/

theorem toNat_opField (w : InsnWord) : (opField w).toNat = w.toNat / 128 := by
  have hw := toNat_eq_fields w
  have hsel : (selField w).toNat < 8 := (selField w).isLt
  have hpos : (posField w).toNat < 16 := (posField w).isLt
  omega

theorem toNat_selField (w : InsnWord) : (selField w).toNat = w.toNat / 16 % 8 := by
  have hw := toNat_eq_fields w
  have hsel : (selField w).toNat < 8 := (selField w).isLt
  have hpos : (posField w).toNat < 16 := (posField w).isLt
  omega

theorem toNat_posField (w : InsnWord) : (posField w).toNat = w.toNat % 16 := by
  have hw := toNat_eq_fields w
  have hpos : (posField w).toNat < 16 := (posField w).isLt
  omega

/-! ### The decoder's checks as numbers (R72 to R74) -/

theorem OpTag.usesPosition_iff_of_ofCode {op : BitVec 5} {t : OpTag} (h : OpTag.ofCode op = some t) :
    t.usesPosition = true ↔ 25 ≤ op.toNat ∧ op.toNat ≤ 27 := by
  rw [← OpTag.code_of_ofCode h]
  cases t <;> decide

theorem Reg8.toNat_ne_six_of_ofCode {sel : BitVec 3} {r : Reg8} (h : Reg8.ofCode sel = some r) :
    sel.toNat ≠ 6 := by
  rw [Ne, ← Reg8.ofCode_none_iff, h]
  exact Option.some_ne_none r

theorem legalPosition_eq_false_iff (pos : BitVec 4) : legalPosition pos = false ↔ 8 ≤ pos.toNat := by
  rw [legalPosition, decide_eq_false_iff_not, not_lt]

/-! ### The words that decode to an error -/

/-- InvalidOperation comes from the first check alone (R231). -/
theorem decode_eq_invalidOperation_iff (w : InsnWord) :
    decode w = .error .invalidOperation ↔ OpTag.ofCode (opField w) = none := by
  rcases decode_cases w with ⟨hop, h⟩ | ⟨t, hop, -, h⟩ | ⟨t, r, hop, -, -, -, h⟩ | ⟨t, r, hop, -, -, h⟩ <;>
    simp [h, hop]

/-- InvalidBitPosition comes from the last check, after both others pass (R233, R234). -/
theorem decode_eq_invalidBitPosition_iff (w : InsnWord) :
    decode w = .error .invalidBitPosition ↔
      (25 ≤ (opField w).toNat ∧ (opField w).toNat ≤ 27) ∧ (selField w).toNat ≠ 6 ∧
        8 ≤ (posField w).toNat := by
  rw [← legalPosition_eq_false_iff]
  rcases decode_cases w with ⟨hop, h⟩ | ⟨t, -, hsel, h⟩ | ⟨t, r, hop, hsel, huses, hpos, h⟩ |
    ⟨t, r, hop, hsel, hlegal, h⟩
  · have hcode := (OpTag.ofCode_none_iff _).mp hop
    simp only [h, Except.error.injEq, reduceCtorEq, false_iff]
    omega
  · have hsix := (Reg8.ofCode_none_iff _).mp hsel
    simp [h, hsix]
  · have hcode := (OpTag.usesPosition_iff_of_ofCode hop).mp huses
    exact iff_of_true h ⟨hcode, Reg8.toNat_ne_six_of_ofCode hsel, hpos⟩
  · rw [← OpTag.usesPosition_iff_of_ofCode hop, h]
    refine iff_of_false nofun fun ⟨huses, _, hpos⟩ => ?_
    exact absurd (hlegal huses) (Bool.eq_false_iff.mp hpos)

end Sys2Proof

namespace Sys2Proof.Machine

/-- Executing a word the decoder rejects raises the decoder's error (R235). -/
theorem executeWord_of_decode_error {w : InsnWord} {e : ExError} (h : decode w = .error e) (s : State) :
    executeWord w s = .next (s.raiseError e) := by
  rw [executeWord, h]

/-! ### The statements -/

/-- Settles O38: the decoder's first check, with the operation code read as a number. -/
theorem unassignedCodesAreInvalidOperation : Obligations.UnassignedCodesAreInvalidOperation := by
  have hiff (w : InsnWord) : decode w = .error .invalidOperation ↔ 28 ≤ w.toNat / 128 := by
    rw [decode_eq_invalidOperation_iff, OpTag.ofCode_none_iff, toNat_opField]
  exact ⟨rfl, fun w => ⟨hiff w, fun hop => executeWord_of_decode_error ((hiff w).mpr hop)⟩⟩

/-- Settles O40: the decoder's last check, with the three fields read as numbers. -/
theorem largePositionsAreInvalidBitPosition : Obligations.LargePositionsAreInvalidBitPosition := by
  have hiff (w : InsnWord) : decode w = .error .invalidBitPosition ↔
      25 ≤ w.toNat / 128 ∧ w.toNat / 128 ≤ 27 ∧ w.toNat / 16 % 8 ≠ 6 ∧ 8 ≤ w.toNat % 16 := by
    rw [decode_eq_invalidBitPosition_iff, toNat_opField, toNat_selField, toNat_posField, and_assoc]
  refine ⟨rfl, fun w => ⟨hiff w, fun hlow hhigh hsel hpos s => ?_⟩⟩
  have herror := (hiff w).mpr ⟨hlow, hhigh, hsel, hpos⟩
  exact ⟨_, executeWord_of_decode_error herror s, s.raiseError_exStatus _⟩

end Sys2Proof.Machine
end

section
/-! PROOFS. The decoder and the encoder against each other (spec 30_encoding.md sections 2 to 5): decode of
encode, the fields the decoder drops, the words with a selector error, the codes, and the number of legal
and illegal words. -/

namespace Sys2Proof

/-! ### The three parts of an instruction -/

theorem Instr.instr_parts (i : Instr) : i.tag.instr i.selected i.position = i := by cases i <;> rfl

/-- An instruction is well-formed when its position is legal or not looked at. -/
theorem Instr.wellFormed_eq (i : Instr) :
    i.wellFormed = !(i.tag.usesPosition && !legalPosition i.position) := by
  cases i with
  | bit pos | res pos | set pos => exact (Bool.not_not (legalPosition pos)).symm
  | _ => rfl

section Parts
variable (t : OpTag) (r : Reg8) (pos : BitVec 4)

@[simp] theorem OpTag.tag_instr : (t.instr r pos).tag = t := by cases t <;> rfl

theorem OpTag.selected_instr (h : t.usesSelector = true) : (t.instr r pos).selected = r := by
  cases t with
  | cpl | scf | ccf | rlca | rrca | rla | rra => exact absurd h Bool.false_ne_true
  | _ => rfl

theorem OpTag.position_instr (h : t.usesPosition = true) : (t.instr r pos).position = pos := by
  cases t with
  | bit | res | set => rfl
  | _ => exact absurd h Bool.false_ne_true

theorem OpTag.wellFormed_instr (h : t.usesPosition = true → legalPosition pos = true) :
    (t.instr r pos).wellFormed = true := by
  rw [Instr.wellFormed_eq, OpTag.tag_instr]
  cases hu : t.usesPosition with
  | true => rw [t.position_instr r pos hu, h hu]; rfl
  | false => rfl

end Parts

/-! ### Decode of encode -/

/-- The canonical word of an instruction decodes to it, if its position is legal. -/
theorem decode_encode (i : Instr) :
    decode (encode i) = if i.wellFormed then .ok i else .error .invalidBitPosition := by
  rw [encode, decode_wordOf, i.instr_parts, i.wellFormed_eq]
  cases i.tag.usesPosition && !legalPosition i.position <;> rfl

/-- Settles O35: the fields of the canonical word give the instruction's three parts back, and the decoder's
last check is well-formedness. -/
theorem decodeEncodeIsIdentity : Obligations.DecodeEncodeIsIdentity :=
  fun i hwf => (decode_encode i).trans (if_pos hwf)

/-! ### Encode of decode -/

/-- A word that decodes to an instruction passes the three checks, and the instruction is made of the parts
its fields name. -/
theorem eq_instr_of_decode_eq_ok {w : InsnWord} {i : Instr} (h : decode w = .ok i) :
    ∃ t r, OpTag.ofCode (opField w) = some t ∧ Reg8.ofCode (selField w) = some r ∧
      (t.usesPosition = true → legalPosition (posField w) = true) ∧ i = t.instr r (posField w) := by
  rcases decode_cases w with ⟨-, he⟩ | ⟨_, -, -, he⟩ | ⟨_, _, -, -, -, -, he⟩ | ⟨t, r, hop, hsel, hlegal, hok⟩
  · exact absurd (he.symm.trans h) nofun
  · exact absurd (he.symm.trans h) nofun
  · exact absurd (he.symm.trans h) nofun
  · exact ⟨t, r, hop, hsel, hlegal, Except.ok.inj (h.symm.trans hok)⟩

/-- The IMPLICIT operations are codes 11 to 17 (R72, R75). -/
theorem OpTag.usesSelector_iff_of_ofCode {op : BitVec 5} {t : OpTag} (h : OpTag.ofCode op = some t) :
    t.usesSelector = true ↔ ¬(11 ≤ op.toNat ∧ op.toNat ≤ 17) := by
  rw [← OpTag.code_of_ofCode h]
  cases t <;> decide

theorem OpTag.toNat_le_of_ofCode {op : BitVec 5} {t : OpTag} (h : OpTag.ofCode op = some t) :
    op.toNat ≤ 27 := by
  rw [← OpTag.code_of_ofCode h]
  cases t <;> decide

/-- Settles O36: the canonical word is put together from the parts of the instruction, which are the word's
fields wherever the operation uses them. -/
theorem decodeDropsOnlyIgnoredFields : Obligations.DecodeDropsOnlyIgnoredFields := by
  intro w i h
  obtain ⟨t, r, hop, hsel, hlegal, rfl⟩ := eq_instr_of_decode_eq_ok h
  simp only [← toNat_opField, ← toNat_selField, ← toNat_posField]
  simp only [encode, opField_wordOf, selField_wordOf, posField_wordOf, OpTag.tag_instr]
  refine ⟨t.wellFormed_instr r _ hlegal, ?_, fun himplicit => ?_, fun hbit => ?_⟩
  · rw [OpTag.code_of_ofCode hop]
  · rw [t.selected_instr r _ ((OpTag.usesSelector_iff_of_ofCode hop).mpr himplicit), Reg8.code_of_ofCode hsel]
  · rw [t.position_instr r _
      ((OpTag.usesPosition_iff_of_ofCode hop).mpr ⟨hbit, OpTag.toNat_le_of_ofCode hop⟩)]

/-! ### The selector error -/

/-- InvalidRegisterSelector comes from the second check, after the first passes (R234). -/
theorem decode_eq_invalidRegisterSelector_iff (w : InsnWord) :
    decode w = .error .invalidRegisterSelector ↔ (opField w).toNat ≤ 27 ∧ (selField w).toNat = 6 := by
  rcases decode_cases w with ⟨hop, h⟩ | ⟨t, hop, hsel, h⟩ | ⟨t, r, -, hsel, -, -, h⟩ | ⟨t, r, -, hsel, -, h⟩
  · have hcode := (OpTag.ofCode_none_iff _).mp hop
    rw [h]
    exact iff_of_false nofun fun ⟨hle, _⟩ => by omega
  · exact iff_of_true h ⟨OpTag.toNat_le_of_ofCode hop, (Reg8.ofCode_none_iff _).mp hsel⟩
  · rw [h]
    exact iff_of_false nofun fun ⟨_, hsix⟩ => Reg8.toNat_ne_six_of_ofCode hsel hsix
  · rw [h]
    exact iff_of_false nofun fun ⟨_, hsix⟩ => Reg8.toNat_ne_six_of_ofCode hsel hsix

/-- Settles O39: the decoder's second check, with the two fields read as numbers. -/
theorem selectorSixIsInvalidRegisterSelector : Obligations.SelectorSixIsInvalidRegisterSelector := by
  have hiff (w : InsnWord) :
      decode w = .error .invalidRegisterSelector ↔ w.toNat / 128 ≤ 27 ∧ w.toNat / 16 % 8 = 6 := by
    rw [decode_eq_invalidRegisterSelector_iff, toNat_opField, toNat_selField]
  exact ⟨rfl, fun w => ⟨hiff w,
    fun hop hsel => Machine.executeWord_of_decode_error ((hiff w).mpr ⟨hop, hsel⟩)⟩⟩

/-! ### The codes and the words written out -/

@[simp] theorem ExStatus.ofCode_code (st : ExStatus) : ExStatus.ofCode st.code = st := by
  cases st with
  | ok => rfl
  | raised e => cases e <;> rfl

/-- Settles O33: the tables written out, and each read back. -/
theorem selectorPairAndStatusCodes : Obligations.SelectorPairAndStatusCodes :=
  ⟨rfl, rfl, Reg8.ofCode_code, rfl, Pair.ofCode_code, rfl, ExStatus.ofCode_code⟩

/-- Settles O34: ten runs of the decoder. -/
theorem writtenOutWordsDecode : Obligations.WrittenOutWordsDecode :=
  ⟨rfl, rfl, rfl, rfl, rfl, rfl, rfl, rfl, rfl, rfl⟩

/-! ### Counting words by their fields -/

/-- Counting below `m * k` by the quotient and the remainder by `k`. -/
theorem countP_range_mul (a b : Nat → Bool) (m k : Nat) :
    (List.range (m * k)).countP (fun n => a (n / k) && b (n % k)) =
      (List.range m).countP a * (List.range k).countP b := by
  induction m with
  | zero => rw [Nat.zero_mul, List.range_zero, List.countP_nil, List.countP_nil, Nat.zero_mul]
  | succ m ih =>
    have hblock : (List.range k).countP (fun j => a ((m * k + j) / k) && b ((m * k + j) % k)) =
        [m].countP a * (List.range k).countP b := by
      have hfields : ∀ j ∈ List.range k,
          (a ((m * k + j) / k) && b ((m * k + j) % k)) = (a m && b j) := by
        intro j hj
        have hlt : j < k := List.mem_range.mp hj
        rw [Nat.mul_comm, Nat.mul_add_div (Nat.zero_lt_of_lt hlt), Nat.div_eq_of_lt hlt, Nat.mul_add_mod,
          Nat.mod_eq_of_lt hlt, Nat.add_zero]
      calc (List.range k).countP (fun j => a ((m * k + j) / k) && b ((m * k + j) % k))
          = (List.range k).countP (fun j => a m && b j) :=
            List.countP_congr fun j hj => by rw [hfields j hj]
        _ = [m].countP a * (List.range k).countP b := by cases h : a m <;> simp [h]
    rw [Nat.succ_mul, List.range_add, List.countP_append, ih, List.countP_map, List.range_succ,
      List.countP_append, Nat.add_mul]
    exact congrArg (_ + ·) hblock

/-- The words whose three fields each meet a condition of their own. -/
theorem countP_fields (a b c : Nat → Bool) :
    (List.range 4096).countP (fun n => a (n / 128) && (b (n / 16 % 8) && c (n % 16))) =
      (List.range 32).countP a * ((List.range 8).countP b * (List.range 16).countP c) := by
  rw [← countP_range_mul b c 8 16, ← countP_range_mul a _ 32 128]
  refine List.countP_congr fun n _ => ?_
  have hsel : n % 128 / 16 = n / 16 % 8 := by omega
  have hpos : n % 128 % 16 = n % 16 := by omega
  rw [hsel, hpos]

/-- The number of words that decode to the error `e`, from the condition on each field. -/
theorem countP_decode_error {e : ExError} (a b c : Nat → Bool)
    (h : ∀ w : InsnWord, decode w = .error e ↔
      a (w.toNat / 128) = true ∧ b (w.toNat / 16 % 8) = true ∧ c (w.toNat % 16) = true) :
    (List.range 4096).countP (fun n => decode (BitVec.ofNat 12 n) == .error e) =
      (List.range 32).countP a * ((List.range 8).countP b * (List.range 16).countP c) := by
  rw [← countP_fields]
  refine List.countP_congr fun n hn => ?_
  have hword : (BitVec.ofNat 12 n).toNat = n := Nat.mod_eq_of_lt (List.mem_range.mp hn)
  have hdecode := h (BitVec.ofNat 12 n)
  rw [hword] at hdecode
  simp only [beq_iff_eq, hdecode, Bool.and_eq_true]

/-- Every answer of the decoder is an instruction or one of the three errors. -/
theorem countP_isOk_add_errors (l : List (Except ExError Instr)) :
    l.countP (·.isOk) + l.countP (· == .error .invalidOperation) +
      l.countP (· == .error .invalidRegisterSelector) + l.countP (· == .error .invalidBitPosition) =
      l.length := by
  induction l with
  | nil => rfl
  | cons d l ih =>
    simp only [List.countP_cons, List.length_cons, ← ih]
    rcases d with e | i
    · cases e <;> simp [Except.isOk, Except.toBool] <;> omega
    · simp [Except.isOk, Except.toBool]; omega

theorem countP_invalidOperation :
    (List.range 4096).countP (fun n => decode (BitVec.ofNat 12 n) == .error .invalidOperation) = 512 :=
  countP_decode_error (fun op => decide (28 ≤ op)) (fun _ => true) (fun _ => true) fun w => by
    simp only [decode_eq_invalidOperation_iff, OpTag.ofCode_none_iff, toNat_opField, decide_eq_true_eq,
      and_true]

theorem countP_invalidRegisterSelector :
    (List.range 4096).countP (fun n => decode (BitVec.ofNat 12 n) == .error .invalidRegisterSelector) = 448 :=
  countP_decode_error (fun op => decide (op ≤ 27)) (fun sel => decide (sel = 6)) (fun _ => true) fun w => by
    simp only [decode_eq_invalidRegisterSelector_iff, toNat_opField, toNat_selField, decide_eq_true_eq,
      and_true]

theorem countP_invalidBitPosition :
    (List.range 4096).countP (fun n => decode (BitVec.ofNat 12 n) == .error .invalidBitPosition) = 168 :=
  countP_decode_error (fun op => decide (25 ≤ op ∧ op ≤ 27)) (fun sel => decide (sel ≠ 6))
    (fun pos => decide (8 ≤ pos)) fun w => by
    simp only [decode_eq_invalidBitPosition_iff, toNat_opField, toNat_selField, toNat_posField,
      decide_eq_true_eq]

/-- The legal words are what the three errors leave of the 4096. -/
theorem countP_isOk :
    (List.range 4096).countP (fun n => (decode (BitVec.ofNat 12 n)).isOk) = 2968 := by
  have hall := countP_isOk_add_errors ((List.range 4096).map fun n => decode (BitVec.ofNat 12 n))
  simp only [List.countP_map, List.length_map, List.length_range, Function.comp_def, countP_invalidOperation,
    countP_invalidRegisterSelector, countP_invalidBitPosition] at hall
  generalize List.countP _ _ = legal at hall ⊢
  omega

/-- Settles O37: each error is a condition on the three fields apart, so its words are a product of three
counts; the legal words are the rest. -/
theorem wordCounts : Obligations.WordCounts := by
  simp only [Obligations.WordCounts, ← List.countP_eq_length_filter]
  exact ⟨countP_invalidOperation, countP_invalidRegisterSelector, countP_invalidBitPosition, countP_isOk⟩

end Sys2Proof
end

section
/-! PROOFS. Steps, the queue of what the host presents, and runs (spec 40_dispatch.md, 60_exceptions.md
section 1, 70_reset_and_hazards.md): what a step can do, what it does for each request, what it does not
read, and runs under the host's contract. -/

namespace Sys2Proof.Machine
open Sys2Proof.Statements

/-! ### What a step can do -/

/-- A step is refused where the next port values assert both enables, and otherwise answers a next state
with those values off the queue. -/
theorem step_cases (s : State) :
    (∃ p rest, s.inputs = p :: rest ∧ p.exEn = true ∧ p.wrEn = true ∧
      step s = .refused .simultaneousRequests) ∨
    ((∀ p ∈ s.inputs.head?, ¬(p.exEn = true ∧ p.wrEn = true)) ∧
      ∃ t, step s = .next t ∧ t.inputs = s.inputs.tail) := by
  cases h : s.inputs with
  | nil => exact .inr ⟨nofun, s.freeStatus, step_no_inputs s h, h⟩
  | cons p rest =>
    have hstep := step_cons s p rest h
    rcases serve_cases p { s with inputs := rest } with ⟨hex, hwr, hserve⟩ | ⟨hone, t, hserve, ht⟩
    · exact .inl ⟨p, rest, rfl, hex, hwr, hstep.trans hserve⟩
    · refine .inr ⟨fun q hq => ?_, t, hstep.trans hserve, ht⟩
      rwa [← Option.some.inj hq]

theorem inputs_of_step_eq_next {s t : State} (h : step s = .next t) : t.inputs = s.inputs.tail := by
  rcases step_cases s with ⟨_, _, -, -, -, hrefused⟩ | ⟨-, u, hu, hinputs⟩
  · exact absurd (hrefused.symm.trans h) nofun
  · rwa [← Host.Outcome.next.inj (hu.symm.trans h)]

/-- Settles O46: both cases of a step read off the ports. -/
theorem stepStopsOnlyOnBothEnables : Obligations.StepStopsOnlyOnBothEnables := by
  intro s
  rcases step_cases s with ⟨p, rest, hs, hex, hwr, h⟩ | ⟨hone, t, h, -⟩
  · rw [h]
    refine ⟨fun f => nofun, fun r => ⟨fun hr => ?_, fun ⟨hr, _⟩ => by rw [hr]⟩⟩
    exact ⟨(Host.Outcome.refused.inj hr).symm, p, rest, hs, hex, hwr⟩
  · rw [h]
    refine ⟨fun f => nofun, fun r => iff_of_false nofun fun ⟨_, p, rest, hs, hboth⟩ => ?_⟩
    exact hone p (by rw [hs]; rfl) hboth

/-! ### The host's contract -/

theorem hostKeepsContract_of_inputs_eq_tail {s t : State} (h : s.hostKeepsContract)
    (ht : t.inputs = s.inputs.tail) : t.hostKeepsContract :=
  fun p hp => h p (List.mem_of_mem_tail (ht ▸ hp))

/-- Under the contract a step is never refused. -/
theorem exists_step_eq_next {s : State} (h : s.hostKeepsContract) :
    ∃ t, step s = .next t ∧ t.inputs = s.inputs.tail := by
  rcases step_cases s with ⟨p, rest, hs, hex, hwr, -⟩ | ⟨-, hnext⟩
  · exact absurd ⟨hex, hwr⟩ (h p (by rw [hs]; exact List.mem_cons_self))
  · exact hnext

/-- Settles O49: a step only takes port values off the queue. -/
theorem stepKeepsHostContract : Obligations.StepKeepsHostContract :=
  fun _ _ h hstep => hostKeepsContract_of_inputs_eq_tail h (inputs_of_step_eq_next hstep)

theorem run_succ_of_step_eq_next {s t : State} (k : Nat) (h : step s = .next t) :
    Sys2Proof.core.run (k + 1) s = Sys2Proof.core.run k t := by
  have hcore : Sys2Proof.core.step s = .next t := h
  simp only [Host.Core.run, hcore]

/-- Settles O50: by induction on the number of steps, each of which completes under the contract and keeps
it. -/
theorem contractRunsAreSafe : Obligations.ContractRunsAreSafe := by
  intro k
  induction k with
  | zero => exact fun s h => ⟨s, rfl, rfl, h⟩
  | succ k ih =>
    intro s h
    obtain ⟨t, hstep, ht⟩ := exists_step_eq_next h
    obtain ⟨u, hrun, hu, hkeeps⟩ := ih t (hostKeepsContract_of_inputs_eq_tail h ht)
    refine ⟨u, (run_succ_of_step_eq_next k hstep).trans hrun, ?_, hkeeps⟩
    rw [hu, ht, List.drop_tail]

/-! ### What a step does for each request -/

section Requests
variable {p : PortInputs}

theorem serve_execute (s : State) (hex : p.exEn = true) (hwr : p.wrEn = false) :
    serve p s = executeWord p.exInsn s := by
  simp only [serve, PortInputs.request, hex, hwr, transact]

theorem serve_setPair (s : State) (hex : p.exEn = false) (hwr : p.wrEn = true) :
    serve p s = .next { s with rf := s.rf.setPair (Pair.ofCode p.wrPair) p.wrData }.freeStatus := by
  simp only [serve, PortInputs.request, hex, hwr, transact, setPairTransaction]

theorem serve_idle (s : State) (hex : p.exEn = false) (hwr : p.wrEn = false) :
    serve p s = .next s.freeStatus := by
  simp only [serve, PortInputs.request, hex, hwr, idle]

end Requests

theorem executeWord_of_decode_ok {w : InsnWord} {i : Instr} (h : decode w = .ok i) (s : State) :
    executeWord w s = exec i s := by
  rw [executeWord, h]

/-- Settles O41: the ports request an Execute, and its word decodes. -/
theorem stepRunsTheDecodedInstruction : Obligations.StepRunsTheDecodedInstruction := by
  intro s p rest i hs hex hwr hdecode
  rw [step_cons s p rest hs, serve_execute _ hex hwr, executeWord_of_decode_ok hdecode]

theorem decode_of_decodeTableWord {nbits w : Nat} {i : Instr} (h : decodeTableWord nbits w = some i) :
    decode (BitVec.ofNat 12 (w % 2 ^ nbits)) = .ok i := by
  unfold decodeTableWord at h
  split at h
  · split at h
    · next j hj => rw [hj, Option.some.inj h]
    · exact absurd h nofun
  · exact absurd h nofun

/-- Settles O42: the word presented is the next Execute (O41), and taking it off the queue restores the
state. -/
theorem presentedTableWordRunsNext : Obligations.PresentedTableWordRunsNext :=
  fun s _ _ i h => stepRunsTheDecodedInstruction _ _ s.inputs i rfl rfl rfl (decode_of_decodeTableWord h)

/-- Settles O43: the ports request an Execute, and its word raises the decoder's error. -/
theorem errorStepChangesNoRegisterOrFlag : Obligations.ErrorStepChangesNoRegisterOrFlag := by
  intro s p rest e hs hex hwr hdecode
  rw [step_cons s p rest hs, serve_execute _ hex hwr, executeWord_of_decode_error hdecode]
  rfl

/-- Settles O44: one SetPair of the pair the code names. -/
theorem setPairStepWritesTheNamedPair : Obligations.SetPairStepWritesTheNamedPair := by
  intro s p rest hs hex hwr
  refine ⟨_, (step_cons s p rest hs).trans (serve_setPair _ hex hwr), rfl, ?_⟩
  rw [State.freeStatus_rf]
  refine ⟨fun h => ?_, fun h => ?_, fun h => ?_, fun h => ?_⟩ <;> rw [Pair.ofCode, h] <;> rfl

/-- Settles O45: an idle step, or the end of the queue, draws one free status. -/
theorem idleStepChangesNoRegisterOrFlag : Obligations.IdleStepChangesNoRegisterOrFlag := by
  intro s hidle
  cases hs : s.inputs with
  | nil => exact ⟨s.freeStatus, step_no_inputs s hs, rfl, hs⟩
  | cons p rest =>
    obtain ⟨hex, hwr⟩ := hidle p (by rw [hs]; rfl)
    exact ⟨_, (step_cons s p rest hs).trans (serve_idle _ hex hwr), rfl, rfl⟩

/-- Settles O48: no entry of the empty queue asserts both enables. -/
theorem resetIsInitStateUnderTheContract : Obligations.ResetIsInitStateUnderTheContract :=
  ⟨fun _ _ => ⟨rfl, rfl⟩, rfl, fun _ hp => absurd hp List.not_mem_nil⟩

/-! ### What a step does not read -/

theorem exec_of_not_wellFormed {i : Instr} (h : i.wellFormed = false) (s : State) :
    exec i s = .next (s.raiseError .invalidBitPosition) := by
  rcases exec_cases i s with ⟨hwf, -⟩ | ⟨-, hexec⟩
  · exact absurd (h.symm.trans hwf) Bool.false_ne_true
  · exact hexec

/-- Every instruction overwrites the status output. -/
theorem exec_exStatus (i : Instr) (s : State) (st : ExStatus) :
    exec i { s with exStatus := st } = exec i s := by
  cases h : i.wellFormed with
  | true => rw [exec_eq_commit_engineOf i _ h, exec_eq_commit_engineOf i s h]; rfl
  | false => rw [exec_of_not_wellFormed h, exec_of_not_wellFormed h]; rfl

theorem serve_exStatus (p : PortInputs) (s : State) (st : ExStatus) :
    serve p { s with exStatus := st } = serve p s := by
  have hword : executeWord p.exInsn { s with exStatus := st } = executeWord p.exInsn s := by
    unfold executeWord
    cases decode p.exInsn with
    | error e => rfl
    | ok i => exact exec_exStatus i s st
  unfold serve
  rcases p.request_cases with ⟨-, -, h⟩ | ⟨-, -, h⟩ | ⟨-, -, h⟩ | ⟨-, -, h⟩ <;> rw [h]
  · exact hword
  · rfl
  · rfl

/-- Settles O52: whatever a step does, it overwrites the status output and reads it nowhere. -/
theorem statusOutputIsNeverRead : Obligations.StatusOutputIsNeverRead := by
  rintro ⟨rf, inputs, old, freeIdx⟩ st
  cases inputs with
  | nil => rfl
  | cons p rest => exact serve_exStatus p ⟨rf, rest, old, freeIdx⟩ st

/-- The same state with the queue `q`. -/
def State.withInputs (s : State) (q : List PortInputs) : State := { s with inputs := q }

/-- An instruction neither reads nor changes the queue. -/
theorem exec_withInputs {i : Instr} {s t : State} (q : List PortInputs) (h : exec i s = .next t) :
    exec i (s.withInputs q) = .next (t.withInputs q) := by
  cases hwf : i.wellFormed with
  | true =>
    rw [exec_eq_commit_engineOf i _ hwf] at h ⊢
    rw [← Host.Outcome.next.inj h]
    rfl
  | false =>
    rw [exec_of_not_wellFormed hwf] at h ⊢
    rw [← Host.Outcome.next.inj h]
    rfl

theorem executeWord_withInputs {w : InsnWord} {s t : State} (q : List PortInputs)
    (h : executeWord w s = .next t) : executeWord w (s.withInputs q) = .next (t.withInputs q) := by
  unfold executeWord at h ⊢
  cases hdecode : decode w with
  | error e =>
    rw [hdecode] at h
    rw [← Host.Outcome.next.inj h]
    rfl
  | ok i =>
    rw [hdecode] at h
    exact exec_withInputs q h

theorem serve_withInputs {p : PortInputs} {s t : State} (q : List PortInputs) (h : serve p s = .next t) :
    serve p (s.withInputs q) = .next (t.withInputs q) := by
  unfold serve at h ⊢
  rcases p.request_cases with ⟨-, -, hp⟩ | ⟨-, -, hp⟩ | ⟨-, -, hp⟩ | ⟨-, -, hp⟩ <;> rw [hp] at h ⊢
  · exact absurd h nofun
  · exact executeWord_withInputs q h
  · rw [← Host.Outcome.next.inj h]
    rfl
  · rw [← Host.Outcome.next.inj h]
    rfl

/-- Settles O53: a step serves the first port values alone and passes the rest of the queue on. -/
theorem laterInputsHaveNoEffect : Obligations.LaterInputsHaveNoEffect := by
  intro s t p rest rest' hs hstep
  rw [step_cons s p rest hs] at hstep
  exact (step_cons _ p rest' rfl).trans (serve_withInputs (s := { s with inputs := rest }) rest' hstep)

/-! ### The boot sequence -/

/-- A SetPair step presented as such writes its pair. -/
theorem step_setPair {s : State} {p : Pair} {v : PairWord} {rest : List PortInputs}
    (hs : s.inputs = PortInputs.setPair p v :: rest) :
    ∃ t, step s = .next t ∧ t.inputs = rest ∧ t.rf = s.rf.setPair p v := by
  refine ⟨_, (step_cons s _ rest hs).trans (serve_setPair _ rfl rfl), rfl, ?_⟩
  rw [State.freeStatus_rf, PortInputs.setPair, Pair.ofCode_code]

/-- A run of SetPair steps writes the pairs one after the other. -/
theorem run_setPairs (v : Pair → PairWord) (rest : List PortInputs) (order : List Pair) (s : State)
    (hs : s.inputs = order.map (fun p => PortInputs.setPair p (v p)) ++ rest) :
    ∃ t, Sys2Proof.core.run order.length s = .next t ∧ t.inputs = rest ∧
      t.rf = order.foldl (fun rf p => rf.setPair p (v p)) s.rf := by
  induction order generalizing s with
  | nil => exact ⟨s, rfl, hs, rfl⟩
  | cons p order ih =>
    obtain ⟨t, hstep, hinputs, hrf⟩ := step_setPair hs
    obtain ⟨u, hrun, hu, hurf⟩ := ih t hinputs
    refine ⟨u, (run_succ_of_step_eq_next _ hstep).trans hrun, hu, ?_⟩
    rw [hurf, hrf, List.foldl_cons]

/-- Different pairs share no byte, so SetPairs of them commute. -/
theorem RegFile.setPair_comm (rf : RegFile) (v : Pair → PairWord) (p q : Pair) :
    (rf.setPair p (v p)).setPair q (v q) = (rf.setPair q (v q)).setPair p (v p) := by
  cases p <;> cases q <;> rfl

/-- Settles O51: the four SetPairs commute, so their order does not matter, and together they write every
register and flag. -/
theorem bootDeterminesTheRegisterFile : Obligations.BootDeterminesTheRegisterFile := by
  intro order v s rest hperm hs
  obtain ⟨t, hrun, hinputs, hrf⟩ := run_setPairs v rest order s hs
  have hlength : order.length = 4 := hperm.length_eq
  have horder := hperm.foldl_eq' (f := fun rf p => rf.setPair p (v p))
    (fun p _ q _ rf => rf.setPair_comm v p q) s.rf
  rw [hlength] at hrun
  exact ⟨t, hrun, hinputs, hrf.trans horder⟩

end Sys2Proof.Machine
end

section
/-! PROOFS. Rules over all instructions (spec 40_dispatch.md section 2, 10_state.md sections 1, 2, 7 and 8):
completion, the registers of a commit target, the flags left unaffected, and what a result depends on. -/

namespace Sys2Proof.Machine
open Sys2Proof.Statements

/-- Settles O47: an instruction commits with status OK, or raises InvalidBitPosition. -/
theorem everyInstructionCompletes : Obligations.EveryInstructionCompletes := by
  intro i s
  rcases exec_cases i s with ⟨hwf, e, h⟩ | ⟨hwf, h⟩
  · exact ⟨_, h, rfl, rfl, by rw [if_pos hwf, State.commit_exStatus],
      fun hill => absurd (hill.symm.trans hwf) Bool.false_ne_true⟩
  · exact ⟨_, h, rfl, rfl, by rw [hwf]; rfl, fun _ => s.raiseError_rf _⟩

/-! ### The registers of a commit target -/

/-- The registers a commit writes; `r` is the selected register (40_dispatch.md R105). -/
def targetRegs (t : CommitTarget) (r : Reg8) : List Reg8 :=
  match t with
  | .a => [.a]
  | .s => [r]
  | .hl => [.h, .l]
  | .none => []

/-- The written-out table is that of the commit targets. -/
theorem writtenBy_eq_targetRegs (i : Instr) : writtenBy i = targetRegs (commitTarget i.tag) i.selected := by
  cases i <;> rfl

theorem frame_commit_hl (s : State) (r : Reg8) (e : EngineResult) :
    Frame s (s.commit .hl r e) [.h, .l] :=
  frame_commit s r e fun x hx => by
    obtain ⟨hh, hl⟩ := not_or.mp (mt List.mem_pair.mpr hx)
    exact RegFile.read_setPair_hl_of_ne s.rf x _ hh hl

theorem frame_commit_targetRegs (s : State) (t : CommitTarget) (r : Reg8) (e : EngineResult) :
    Frame s (s.commit t r e) (targetRegs t r) := by
  cases t with
  | a => exact frame_commit_acc s r e
  | s => exact frame_commit_sel s r e
  | hl => exact frame_commit_hl s r e
  | none => exact frame_commit_none s r e

/-- Settles O54: what a commit writes is its target, and an error writes nothing. -/
theorem noWriteOutsideTheCommitTarget : Obligations.NoWriteOutsideTheCommitTarget := by
  intro i s t ht x hx
  rcases exec_cases i s with ⟨-, e, h⟩ | ⟨-, h⟩ <;> rw [← Host.Outcome.next.inj (h.symm.trans ht)]
  · obtain ⟨hframe, -⟩ := frame_commit_targetRegs s (commitTarget i.tag) i.selected e
    exact hframe x (writtenBy_eq_targetRegs i ▸ hx)
  · rw [State.raiseError_rf]

/-! ### The flags left unaffected -/

/-- Settles O55: the engine copies every flag it does not write. -/
theorem unaffectedFlagsKeepTheirValues : Obligations.UnaffectedFlagsKeepTheirValues := by
  intro i s t ht
  cases hwf : i.wellFormed with
  | true =>
    rw [exec_eq_commit_engineOf i s hwf] at ht
    rw [← Host.Outcome.next.inj ht, State.commit_rf, RegFile.writeFlags_f]
    have kept := engineOf_keepsUnwrittenFlags i s.rf s.rf.f
    exact ⟨kept.z, fun hnh => ⟨kept.n hnh, kept.h hnh⟩, kept.c⟩
  | false =>
    rw [exec_of_not_wellFormed hwf] at ht
    rw [← Host.Outcome.next.inj ht, State.raiseError_rf]
    exact ⟨fun _ => rfl, fun _ => ⟨rfl, rfl⟩, fun _ => rfl⟩

/-! ### What a result depends on -/

/-- An engine looks at the registers its instruction reads. SCF and CCF hand A through to a result that is
committed nowhere, so they depend on it in no flag. -/
theorem engineOf_congr_readBy (i : Instr) {rf rf' : RegFile} (f : Flags)
    (h : ∀ x ∈ readBy i, rf.read x = rf'.read x) :
    (engineOf i rf f).flags = (engineOf i rf' f).flags ∧
      (commitTarget i.tag ≠ .none → (engineOf i rf f).res = (engineOf i rf' f).res) := by
  cases i with
  | add r | adc r | sub r | sbc r | and r | xor r | or r | cp r =>
    have ha : rf.read .a = rf'.read .a := h .a List.mem_cons_self
    have hr : rf.read r = rf'.read r := h r (List.mem_cons_of_mem _ List.mem_cons_self)
    simp only [engineOf, ha, hr, implies_true, and_self]
  | cpl | rlca | rrca | rla | rra =>
    have ha : rf.read .a = rf'.read .a := h .a List.mem_cons_self
    simp only [engineOf, ha, implies_true, and_self]
  | addhl r =>
    have hr : rf.read r = rf'.read r := h r List.mem_cons_self
    have hh : rf.read .h = rf'.read .h := h .h (List.mem_cons_of_mem _ List.mem_cons_self)
    have hl : rf.read .l = rf'.read .l :=
      h .l (List.mem_cons_of_mem _ (List.mem_cons_of_mem _ List.mem_cons_self))
    simp only [engineOf, hr, hh, hl, implies_true, and_self]
  | inc r | dec r | rlc r | rrc r | rl r | rr r | sla r | srl r | swap r | bit _ r | res _ r | set _ r =>
    have hr : rf.read r = rf'.read r := h r List.mem_cons_self
    simp only [engineOf, hr, implies_true, and_self]
  | scf | ccf => exact ⟨rfl, fun hnone => absurd rfl hnone⟩

/-- A register of the commit target holds a function of the byte committed. -/
theorem read_commit_congr {s s' : State} {t : CommitTarget} {r x : Reg8} {e e' : EngineResult}
    (hx : x ∈ targetRegs t r) (h : t ≠ .none → e.res = e'.res) :
    (s.commit t r e).rf.read x = (s'.commit t r e').rf.read x := by
  cases t with
  | a =>
    rw [List.mem_singleton.mp hx, read_commit_acc, read_commit_acc, h nofun]
  | s =>
    rw [List.mem_singleton.mp hx, read_commit_sel, read_commit_sel, h nofun]
  | hl =>
    simp only [State.commit_rf, RegFile.read_writeFlags, RegFile.commit_hl, h nofun]
    rcases List.mem_pair.mp hx with rfl | rfl <;> rfl
  | none => exact absurd hx List.not_mem_nil

/-- Settles O56: first the registers change and then the flags; the engine sees neither change in what the
instruction writes. -/
theorem resultsDependOnlyOnWhatIsRead : Obligations.ResultsDependOnlyOnWhatIsRead := by
  intro i s s' t t' hwf hread hcarry ht ht'
  obtain ⟨hflags, hres⟩ := engineOf_congr_readBy i s.rf.f hread
  have agree := engineOf_agreeOnWritten i s'.rf s.rf.f s'.rf.f hcarry
  rw [exec_eq_commit_engineOf i _ hwf] at ht ht'
  rw [← Host.Outcome.next.inj ht, ← Host.Outcome.next.inj ht']
  refine ⟨fun x hx => ?_, ?_⟩
  · rw [writtenBy_eq_targetRegs] at hx
    exact read_commit_congr hx fun htarget => (hres htarget).trans agree.res
  · simp only [State.commit_rf, RegFile.writeFlags_f, hflags]
    exact ⟨agree.z, fun hnh => ⟨agree.n hnh, agree.h hnh⟩, agree.c⟩

end Sys2Proof.Machine
end

section
/-! PROOFS. The laws of the flag codec (spec 10_state.md section 3) and the state outputs (40_dispatch.md
section 1). -/

namespace Sys2Proof.Machine

/-- Settles O27: the two laws of the codec. -/
theorem flagCodecRoundTrips : Obligations.FlagCodecRoundTrips :=
  ⟨decodeFlags_encodeFlags, encodeFlags_decodeFlags⟩

/-- Settles O32: the flag byte and the pairs as numbers. -/
theorem outputsShowTheState : Obligations.OutputsShowTheState :=
  fun s => ⟨rfl, rfl, toNat_encodeFlags s.rf.f, toNat_pairOf .., toNat_pairOf .., toNat_pairOf ..,
    toNat_pairOf ..⟩

end Sys2Proof.Machine
end

section
/-! PROOFS. Subtraction, comparison, ADDHL, AND and CPL (spec 41_arith.md section 2, 42_logic_flags.md
section 2): the flags of each engine in numbers, and the statements. -/

namespace Sys2Proof.Machine
open Sys2Proof.Statements

/-! ### The flags in numbers -/

/-- A difference of two bytes is zero modulo 256 only when they are equal. -/
theorem subEngine_flags (a v : Byte) (f : Flags) :
    (subEngine a v f).flags =
      { z := decide (a.toNat = v.toNat), n := true, h := decide (a.toNat % 16 < v.toNat % 16)
        c := decide (v.toNat > a.toNat) } := by
  have hz : ((a.toNat : Int) - v.toNat) % 256 = 0 ↔ a.toNat = v.toNat := by
    have ha : a.toNat < 256 := a.isLt
    have hv : v.toNat < 256 := v.isLt
    omega
  simp only [subEngine, isZero_trunc8, hz, borrow, lowNibble_eq, gt_iff_lt]

theorem sbcEngine_flags (a v : Byte) (f : Flags) :
    (sbcEngine a v f).flags =
      { z := decide (((a.toNat : Int) - v.toNat - flagNat f.c) % 256 = 0), n := true
        h := decide (a.toNat % 16 < v.toNat % 16 + flagNat f.c)
        c := decide (v.toNat + flagNat f.c > a.toNat) } := by
  simp only [sbcEngine, isZero_trunc8, borrow, lowNibble_eq, gt_iff_lt]

theorem addhlEngine_flags (v h l : Byte) (f : Flags) :
    (addhlEngine v h l f).flags =
      { z := decide ((v.toNat + h.toNat + l.toNat) % 256 = 0), n := false
        h := decide (h.toNat % 16 + l.toNat % 16 + v.toNat % 16 > 15)
        c := decide (v.toNat + h.toNat + l.toNat > 255) } := by
  simp only [addhlEngine, isZero_trunc8_nat, nibbleCarry, lowNibble_eq, byteCarry]

/-! ### The zero-extended byte in HL -/

section HL
variable (s : State) (r : Reg8) (e : EngineResult)

@[simp] theorem num_commit_hl_high : num (s.commit .hl r e) .h = 0 :=
  congrArg BitVec.toNat (hi_zext16 e.res)

@[simp] theorem num_commit_hl_low : num (s.commit .hl r e) .l = e.res.toNat :=
  congrArg BitVec.toNat (lo_zext16 e.res)

end HL

/-! ### The statements -/

/-- Settles O3: the commit to A of the engine's result, with an integer remainder because a difference can
be negative. -/
theorem subResultFlagsFrame : Obligations.SubResultFlagsFrame := by
  refine ⟨fun r s => ⟨s.commit .a r (subEngine (s.rf.read .a) (s.rf.read r) s.rf.f),
    exec_eq_commit_engineOf (.sub r) s rfl, ?_⟩,
    encodedWithRegister .sub rfl (fun _ _ => rfl) (fun _ => rfl)⟩
  rw [num_commit_acc, State.commit_rf, RegFile.writeFlags_f, subEngine_flags]
  exact ⟨toNat_trunc8 _, rfl, rfl, rfl, rfl, frame_commit_acc ..⟩

/-- Settles O4: as for SUB, with the old carry taken off as well. -/
theorem sbcResultFlagsFrame : Obligations.SbcResultFlagsFrame := by
  refine ⟨fun r s => ⟨s.commit .a r (sbcEngine (s.rf.read .a) (s.rf.read r) s.rf.f),
    exec_eq_commit_engineOf (.sbc r) s rfl, ?_⟩,
    encodedWithRegister .sbc rfl (fun _ _ => rfl) (fun _ => rfl)⟩
  rw [num_commit_acc, State.commit_rf, RegFile.writeFlags_f, sbcEngine_flags]
  exact ⟨toNat_trunc8 _, rfl, rfl, rfl, rfl, frame_commit_acc ..⟩

/-- Settles O5: CP commits SUB's engine result to no register, so the flags are the same record. -/
theorem compareWritesOnlyTheFlagsOfSub : Obligations.CompareWritesOnlyTheFlagsOfSub := by
  refine ⟨fun r s => ⟨s.commit .none r (subEngine (s.rf.read .a) (s.rf.read r) s.rf.f),
    s.commit .a r (subEngine (s.rf.read .a) (s.rf.read r) s.rf.f),
    exec_eq_commit_engineOf (.cp r) s rfl, exec_eq_commit_engineOf (.sub r) s rfl, rfl, ?_⟩,
    encodedWithRegister .cp rfl (fun _ _ => rfl) (fun _ => rfl)⟩
  rw [State.commit_rf, RegFile.writeFlags_f, subEngine_flags]
  exact ⟨rfl, rfl, rfl, rfl, frame_commit_none ..⟩

/-- Settles O6: the byte sum goes into HL zero-extended, so H is 0 and L is the sum. -/
theorem addhlResultFlagsFrame : Obligations.AddhlResultFlagsFrame := by
  refine ⟨fun r s => ⟨s.commit .hl r (addhlEngine (s.rf.read r) (s.rf.read .h) (s.rf.read .l) s.rf.f),
    exec_eq_commit_engineOf (.addhl r) s rfl, num_commit_hl_high .., ?_⟩,
    encodedWithRegister .addhl rfl (fun _ _ => rfl) (fun _ => rfl)⟩
  rw [num_commit_hl_low, State.commit_rf, RegFile.writeFlags_f, addhlEngine_flags]
  exact ⟨toNat_trunc8_nat _, rfl, rfl, rfl, rfl, frame_commit_hl ..⟩

/-- Settles O10: a logic result is committed to A, whose bits are those of `&&&`. -/
theorem andResultFlagsFrame : Obligations.AndResultFlagsFrame := by
  refine ⟨fun r s => ⟨s.commit .a r (logicResult (s.rf.read .a &&& s.rf.read r)),
    exec_eq_commit_engineOf (.and r) s rfl, fun i => ?_, flags_commit_logicResult .., frame_commit_acc ..⟩,
    encodedWithRegister .and rfl (fun _ _ => rfl) (fun _ => rfl)⟩
  rw [read_commit_acc]
  exact BitVec.getLsbD_and

/-- Settles O12: the complement of a byte is 255 less the byte. -/
theorem cplResultFlagsFrame : Obligations.CplResultFlagsFrame :=
  ⟨fun s => ⟨s.commit .a .a (cplEngine (s.rf.read .a) s.rf.f),
    exec_eq_commit_engineOf .cpl s rfl, BitVec.toNat_not, rfl, frame_commit_acc ..⟩,
    encodedImplicit .cpl rfl (fun _ _ => rfl) rfl⟩

end Sys2Proof.Machine
end

section
/-! PROOFS. Rotates (spec 43_rotate_shift.md sections 1 to 3 and 5): the helper functions bit by bit and in
numbers, the statements of the eight rotates, the A-register variants against the register forms, and the
rotates for every count. -/

namespace Sys2Proof.Machine
open Sys2Proof.Statements

/-! ### The helper functions bit by bit -/

section Bits
variable (x : Byte) (n i : Nat)

theorem rotl_eq_rotateLeft (hn : n < 8) : rotl x n = x.rotateLeft n :=
  (BitVec.rotateLeft_eq_rotateLeftAux_of_lt hn).symm

/-- A left rotate takes each bit from the place `n` below it, cyclically. -/
theorem getLsbD_rotl (hn : n < 8) (hi : i < 8) : (rotl x n).getLsbD i = x.getLsbD ((i + 8 - n) % 8) := by
  rw [rotl_eq_rotateLeft x n hn, BitVec.getLsbD_rotateLeft, Nat.mod_eq_of_lt hn]
  by_cases hwrap : i < n
  · have hplace : (i + 8 - n) % 8 = 8 - n + i := by omega
    rw [decide_eq_true hwrap, cond_true, hplace]
  · have hplace : (i + 8 - n) % 8 = i - n := by omega
    rw [decide_eq_false hwrap, cond_false, decide_eq_true hi, Bool.true_and, hplace]

/-- A right rotate is the left rotate by the remaining places. -/
theorem rotr_eq_rotl (hn : n ≤ 8) : rotr x n = rotl x (8 - n) := by
  rw [rotr, rotl, Nat.sub_sub_self hn, BitVec.or_comm]

/-- A right rotate takes each bit from the place `n` above it, cyclically. -/
theorem getLsbD_rotr (hpos : 1 ≤ n) (hn : n < 8) (hi : i < 8) :
    (rotr x n).getLsbD i = x.getLsbD ((i + n) % 8) := by
  have hplace : i + 8 - (8 - n) = i + n := by omega
  rw [rotr_eq_rotl x n (Nat.le_of_lt hn), getLsbD_rotl x (8 - n) i (by omega) hi, hplace]

end Bits

/-! ### The helper functions in numbers -/

section Numbers
variable (x b : Byte)

/-- A shift left by one makes room for one bit, so `|||` adds it. -/
theorem toNat_shiftLeft_one_or (hb : b.toNat < 2) : ((x <<< 1) ||| b).toNat = x.toNat * 2 % 256 + b.toNat := by
  have hshift : x.toNat * 2 % 256 = (x.toNat % 128) <<< 1 := by
    rw [Nat.shiftLeft_eq]
    exact Nat.mul_mod_mul_right 2 x.toNat 128
  rw [BitVec.toNat_or, toNat_shiftLeft_one, hshift]
  exact (Nat.shiftLeft_add_eq_or_of_lt hb _).symm

/-- A shift right by one makes room for one bit at the top, so `|||` adds it. -/
theorem toNat_or_ushiftRight_one :
    ((b <<< 7) ||| (x >>> 1)).toNat = b.toNat % 2 * 128 + x.toNat / 2 := by
  have hhalf : x.toNat / 2 < 2 ^ 7 := Nat.div_lt_of_lt_mul x.isLt
  have hshift : (b <<< 7).toNat = (b.toNat % 2) <<< 7 := by
    rw [BitVec.toNat_shiftLeft, Nat.shiftLeft_eq, Nat.shiftLeft_eq]
    omega
  rw [BitVec.toNat_or, hshift, toNat_ushiftRight_one, ← Nat.shiftLeft_add_eq_or_of_lt hhalf, Nat.shiftLeft_eq]

theorem toNat_flagByte (c : Bool) : (flagByte c).toNat = flagNat c := by cases c <;> rfl

theorem toNat_rotl_one : (rotl x 1).toNat = x.toNat * 2 % 256 + x.toNat / 128 := by
  have htop : (x >>> 7).toNat = x.toNat / 128 := by
    rw [BitVec.toNat_ushiftRight, Nat.shiftRight_eq_div_pow]
  have hbit : (x >>> 7).toNat < 2 := htop ▸ Nat.div_lt_of_lt_mul x.isLt
  rw [← htop]
  exact toNat_shiftLeft_one_or x (x >>> 7) hbit

theorem toNat_rotr_one : (rotr x 1).toNat = x.toNat / 2 + x.toNat % 2 * 128 := by
  rw [rotr, BitVec.or_comm, Nat.add_comm]
  exact toNat_or_ushiftRight_one x x

theorem toNat_rlc1 (c : Bool) : (rlc1 x c).toNat = x.toNat * 2 % 256 + flagNat c := by
  rw [← toNat_flagByte]
  exact toNat_shiftLeft_one_or x (flagByte c) (by cases c <;> decide)

theorem toNat_rrc1 (c : Bool) : (rrc1 x c).toNat = x.toNat / 2 + flagNat c * 128 := by
  have hbit : flagNat c % 2 = flagNat c := Nat.mod_eq_of_lt (Nat.lt_succ_of_le (flagNat_le c))
  rw [rrc1, toNat_or_ushiftRight_one, toNat_flagByte, hbit, Nat.add_comm]

/-- The bit a left rotate by one moves round is bit 7. -/
theorem getLsbD_rotl_one : (rotl x 1).getLsbD 0 = decide (x.toNat ≥ 128) := by
  rw [getLsbD_rotl x 1 0 (by decide) (by decide), ← getLsbD_seven_eq]

/-- The bit a right rotate by one moves round is bit 0. -/
theorem getLsbD_rotr_one : (rotr x 1).getLsbD 7 = decide (x.toNat % 2 = 1) := by
  rw [getLsbD_rotr x 1 7 (by decide) (by decide) (by decide), ← getLsbD_zero_eq]

/-- A rotate loses no bit, so it gives zero for zero alone. -/
theorem isZero_rotl_one : isZero (rotl x 1) = decide (x.toNat = 0) := by
  have hlow : x.toNat * 2 % 256 = x.toNat % 128 * 2 := Nat.mul_mod_mul_right 2 x.toNat 128
  rw [isZero_eq, toNat_rotl_one, decide_eq_decide, hlow]
  omega

theorem isZero_rotr_one : isZero (rotr x 1) = decide (x.toNat = 0) := by
  rw [isZero_eq, toNat_rotr_one, decide_eq_decide]
  omega

end Numbers

/-! ### The statements of the eight rotates -/

/-- Settles O14: the rotate by one of A is committed, and the flag record keeps Z. -/
theorem rlcaRrcaResultFlagsFrame : Obligations.RlcaRrcaResultFlagsFrame := by
  refine ⟨fun s => ⟨s.commit .a .a (rlcaEngine Config.rotN (s.rf.read .a) s.rf.f),
      exec_eq_commit_engineOf .rlca s rfl, toNat_rotl_one _, ?_, frame_commit_acc ..⟩,
    encodedImplicit .rlca rfl (fun _ _ => rfl) rfl,
    fun s => ⟨s.commit .a .a (rrcaEngine Config.rotN (s.rf.read .a) s.rf.f),
      exec_eq_commit_engineOf .rrca s rfl, toNat_rotr_one _, ?_, frame_commit_acc ..⟩,
    encodedImplicit .rrca rfl (fun _ _ => rfl) rfl⟩
  · rw [num, ← getLsbD_rotl_one]
    rfl
  · rw [num, ← getLsbD_rotr_one]
    rfl

/-- Settles O15: as for O14, with the old carry coming in and the bit at the other end going out. -/
theorem rlaRraResultFlagsFrame : Obligations.RlaRraResultFlagsFrame := by
  refine ⟨fun s => ⟨s.commit .a .a (rlaEngine (s.rf.read .a) s.rf.f),
      exec_eq_commit_engineOf .rla s rfl, toNat_rlc1 .., ?_, frame_commit_acc ..⟩,
    encodedImplicit .rla rfl (fun _ _ => rfl) rfl,
    fun s => ⟨s.commit .a .a (rraEngine (s.rf.read .a) s.rf.f),
      exec_eq_commit_engineOf .rra s rfl, toNat_rrc1 .., ?_, frame_commit_acc ..⟩,
    encodedImplicit .rra rfl (fun _ _ => rfl) rfl⟩
  · rw [num, ← getLsbD_seven_eq]
    rfl
  · rw [num, ← getLsbD_zero_eq]
    rfl

/-- Settles O16: the rotate by one of `r` is committed to `r`, and is zero when `r` is. -/
theorem rlcRrcResultFlagsFrame : Obligations.RlcRrcResultFlagsFrame := by
  refine ⟨fun r s => ⟨s.commit .s r (rlcEngine Config.rotN (s.rf.read r) s.rf.f),
      exec_eq_commit_engineOf (.rlc r) s rfl, ?_, ?_, frame_commit_sel ..⟩,
    encodedWithRegister .rlc rfl (fun _ _ => rfl) (fun _ => rfl),
    fun r s => ⟨s.commit .s r (rrcEngine Config.rotN (s.rf.read r) s.rf.f),
      exec_eq_commit_engineOf (.rrc r) s rfl, ?_, ?_, frame_commit_sel ..⟩,
    encodedWithRegister .rrc rfl (fun _ _ => rfl) (fun _ => rfl)⟩
  · rw [num_commit_sel]
    exact toNat_rotl_one _
  · rw [num, ← isZero_rotl_one, ← getLsbD_rotl_one]
    rfl
  · rw [num_commit_sel]
    exact toNat_rotr_one _
  · rw [num, ← isZero_rotr_one, ← getLsbD_rotr_one]
    rfl

/-- Settles O17: as for O16, with the old carry coming in, so Z is tested on the result. -/
theorem rlRrResultFlagsFrame : Obligations.RlRrResultFlagsFrame := by
  refine ⟨fun r s => ⟨s.commit .s r (rlEngine (s.rf.read r) s.rf.f),
      exec_eq_commit_engineOf (.rl r) s rfl, ?_, ?_, frame_commit_sel ..⟩,
    encodedWithRegister .rl rfl (fun _ _ => rfl) (fun _ => rfl),
    fun r s => ⟨s.commit .s r (rrEngine (s.rf.read r) s.rf.f),
      exec_eq_commit_engineOf (.rr r) s rfl, ?_, ?_, frame_commit_sel ..⟩,
    encodedWithRegister .rr rfl (fun _ _ => rfl) (fun _ => rfl)⟩
  · rw [num_commit_sel]
    exact toNat_rlc1 ..
  · rw [num, num, ← getLsbD_seven_eq]
    exact flags_commit_shiftResult ..
  · rw [num_commit_sel]
    exact toNat_rrc1 ..
  · rw [num, num, ← getLsbD_zero_eq]
    exact flags_commit_shiftResult ..

/-! ### The A-register variants -/

/-- The two ways to commit the same byte and carry to A agree but for Z. -/
theorem commit_shiftResult_accRotateResult {regForm accForm : Instr} (s : State) (res : Byte) (carry : Bool)
    (hreg : exec regForm s = .next (s.commit .s .a (shiftResult res carry)))
    (hacc : exec accForm s = .next (s.commit .a .a (accRotateResult res carry s.rf.f))) :
    ∃ t u, exec regForm s = .next t ∧ exec accForm s = .next u ∧
      (∀ x, t.rf.read x = u.rf.read x) ∧
      t.rf.f.n = u.rf.f.n ∧ t.rf.f.h = u.rf.f.h ∧ t.rf.f.c = u.rf.f.c ∧
      t.rf.f.z = decide (num t .a = 0) ∧ u.rf.f.z = s.rf.f.z := by
  refine ⟨_, _, hreg, hacc, fun x => ?_, rfl, rfl, rfl, isZero_eq res, rfl⟩
  rw [State.commit_rf, RegFile.read_writeFlags, State.commit_rf, RegFile.read_writeFlags]
  rfl

/-- Settles O20: the two forms of each pair commit the same byte and the same carry to A. -/
theorem accumulatorRotatesDifferOnlyInZ : Obligations.AccumulatorRotatesDifferOnlyInZ := by
  intro regForm accForm hpair s
  simp only [List.mem_cons, Prod.mk.injEq, List.not_mem_nil, or_false] at hpair
  rcases hpair with ⟨rfl, rfl⟩ | ⟨rfl, rfl⟩ | ⟨rfl, rfl⟩ | ⟨rfl, rfl⟩
  · exact commit_shiftResult_accRotateResult s (rotl s.rf.a Config.rotN) _ rfl rfl
  · exact commit_shiftResult_accRotateResult s (rotr s.rf.a Config.rotN) _ rfl rfl
  · exact commit_shiftResult_accRotateResult s (rlc1 s.rf.a s.rf.f.c) _ rfl rfl
  · exact commit_shiftResult_accRotateResult s (rrc1 s.rf.a s.rf.f.c) _ rfl rfl

/-! ### Every count -/

/-- The bits the mask clears are shifted out anyway. -/
theorem and_0xF_shiftLeft_four (x : Byte) : (x &&& 0xF#8) <<< 4 = x <<< 4 := by
  have hlow : (x &&& 0xF#8).toNat = x.toNat % 16 := lowNibble_eq x
  apply BitVec.eq_of_toNat_eq
  rw [BitVec.toNat_shiftLeft, BitVec.toNat_shiftLeft, hlow, Nat.shiftLeft_eq, Nat.shiftLeft_eq]
  omega

theorem rotl_four_eq_swapEngine_res (x : Byte) (f : Flags) : rotl x 4 = (swapEngine x f).res := by
  rw [swapEngine, and_0xF_shiftLeft_four]
  rfl

/-- Settles O21: bit by bit; the carry is one bit of the result, and four places are half a turn either way. -/
theorem rotatesHoldForEveryCount : Obligations.RotatesHoldForEveryCount := by
  intro x f n hpos hseven
  have hn : n < 8 := Nat.lt_succ_of_le hseven
  have hleft : (0 + 8 - n) % 8 = 8 - n := by omega
  have hright : (7 + n) % 8 = n - 1 := by omega
  refine ⟨fun i hi => getLsbD_rotl x n i hn hi, ?_, fun i hi => getLsbD_rotr x n i hpos hn hi, ?_,
    rfl, rfl, rfl, rfl, ?_⟩
  · exact hleft ▸ getLsbD_rotl x n 0 hn (by decide)
  · exact hright ▸ getLsbD_rotr x n 7 hpos hn (by decide)
  · rintro rfl
    exact ⟨rotl_four_eq_swapEngine_res x f,
      (rotr_eq_rotl x 4 (by decide)).trans (rotl_four_eq_swapEngine_res x f)⟩

end Sys2Proof.Machine
end

section
/-! PROOFS. BIT, RES and SET with their encodings and errors (spec 44_bit.md section 2, 60_exceptions.md
section 1), and the operations that restore what they changed (42_logic_flags.md section 2,
43_rotate_shift.md sections 2 and 4). -/

namespace Sys2Proof.Machine
open Sys2Proof.Statements

/-! ### The encoding of the BITTEST and BITINPLACE classes -/

/-- The encoding of an instruction `mk pos r` that takes a position, from its operation `t`. -/
theorem encodedWithPosition (t : OpTag) {mk : BitVec 4 → Reg8 → Instr} (hpos : t.usesPosition = true)
    (hmk : ∀ r pos, t.instr r pos = mk pos r) (hencode : ∀ pos r, encode (mk pos r) = wordOf t.code r.code pos)
    (hwf : ∀ pos r, (mk pos r).wellFormed = legalPosition pos) : EncodedWithPosition t.code.toNat mk := by
  have hlegal : ∀ p : Fin 8, legalPosition (BitVec.ofNat 4 p.val) = true := by decide
  have hillegal : ∀ p : Fin 8, legalPosition (BitVec.ofNat 4 (8 + p.val)) = false := by decide
  have hvalue (n : Nat) (hn : n < 16) : (BitVec.ofNat 4 n).toNat = n := Nat.mod_eq_of_lt hn
  refine ⟨fun p r => ?_, fun p r => ?_, fun p r => ?_, fun pos => ?_, fun p r s => ?_⟩
  · rw [hencode, toNat_wordOf, hvalue p.val (by omega)]
  · have hword := ofNat_fields_eq_wordOf t.code r.code (BitVec.ofNat 4 p.val)
    rw [hvalue p.val (by omega)] at hword
    rw [hword, decode_wordOf, hpos, hlegal, hmk]
    rfl
  · have hword := ofNat_fields_eq_wordOf t.code r.code (BitVec.ofNat 4 (8 + p.val))
    rw [hvalue (8 + p.val) (by omega), ← Nat.add_assoc] at hword
    rw [hword, decode_wordOf, hpos, hillegal]
    rfl
  · exact (congrArg decode (ofNat_fields_eq_wordOf t.code 6 (.ofFin pos))).trans
      (decode_wordOf_selector_six ..)
  · exact ⟨_, exec_of_not_wellFormed ((hwf _ r).trans (hillegal p)) s, s.raiseError_exStatus _⟩

/-! ### The statements of BIT, RES and SET -/

/-- Settles O22: the engine's flags are committed and no register. -/
theorem bitTestWritesOnlyFlags : Obligations.BitTestWritesOnlyFlags := by
  refine ⟨fun p r s => ⟨s.commit .none r (bitEngine p.val (s.rf.read r) s.rf.f),
    runBit_ofNat .bit bitEngine p r s, ?_, frame_commit_none ..⟩,
    encodedWithPosition .bit rfl (fun _ _ => rfl) (fun _ _ => rfl) (fun _ _ => rfl)⟩
  rw [← bitEngine_z p (s.rf.read r) s.rf.f]
  rfl

/-- Settles O23: the engines bit by bit; both hand the flag record through. -/
theorem resSetWriteOneBit : Obligations.ResSetWriteOneBit := by
  refine ⟨fun p r s => ⟨_, exec_res p r s, fun i => ?_, rfl, frame_commit_sel ..⟩,
    encodedWithPosition .res rfl (fun _ _ => rfl) (fun _ _ => rfl) (fun _ _ => rfl),
    fun p r s => ⟨_, exec_set p r s, fun i => ?_, rfl, frame_commit_sel ..⟩,
    encodedWithPosition .set rfl (fun _ _ => rfl) (fun _ _ => rfl) (fun _ _ => rfl)⟩
  · rw [read_commit_sel, getLsbD_resEngine_res, decide_not]
  · rw [read_commit_sel, getLsbD_setEngine_res]

/-! ### Instructions in a row -/

theorem execTimes_succ {i : Instr} {s t : State} (n : Nat) (h : exec i s = .next t) :
    execTimes (n + 1) i s = execTimes n i t := by
  simp only [execTimes, h]

/-- SWAP undoes itself: quotient and remainder by 16 change places twice. -/
theorem swapEngine_swapEngine_res (v : Byte) (f f' : Flags) :
    (swapEngine (swapEngine v f).res f').res = v := by
  have hv : v.toNat < 256 := v.isLt
  apply BitVec.eq_of_toNat_eq
  rw [toNat_swapEngine_res, toNat_swapEngine_res]
  omega

theorem execTimes_two_swap (r : Reg8) (s : State) :
    ∃ t, execTimes 2 (.swap r) s = .next t ∧ t.rf.read r = s.rf.read r := by
  refine ⟨_, rfl, ?_⟩
  rw [commitTarget, read_commit_sel, read_commit_sel, swapEngine_swapEngine_res]

/-! ### RLA as a rotate of nine bits -/

/-- The nine bits RLA rotates: those of A, and C above them. -/
def ringBit (s : State) (i : Nat) : Bool := if i = 8 then s.rf.f.c else s.rf.a.getLsbD i

theorem getLsbD_rlc1 (x : Byte) (c : Bool) {i : Nat} (hi : i < 8) :
    (rlc1 x c).getLsbD i = if i = 0 then c else x.getLsbD (i - 1) := by
  rw [rlc1, BitVec.getLsbD_or, BitVec.getLsbD_shiftLeft, BitVec.getLsbD_eq_getElem (x := flagByte c) hi,
    getElem_flagByte c i hi]
  cases i with
  | zero => simp
  | succ i => simp [hi]

/-- RLA moves each of the nine bits up by one place, C round to bit 0. -/
theorem exec_rla_ringBit (s : State) :
    ∃ t, exec .rla s = .next t ∧ ∀ i, i < 9 → ringBit t i = ringBit s ((i + 8) % 9) := by
  refine ⟨s.commit .a .a (rlaEngine s.rf.a s.rf.f), exec_eq_commit_engineOf .rla s rfl, fun i hi => ?_⟩
  have hc : (s.commit .a .a (rlaEngine s.rf.a s.rf.f)).rf.f.c = s.rf.a.getLsbD 7 := rfl
  have ha : (s.commit .a .a (rlaEngine s.rf.a s.rf.f)).rf.a = rlc1 s.rf.a s.rf.f.c := rfl
  rw [ringBit, ringBit, hc, ha]
  rcases Nat.lt_or_eq_of_le (Nat.le_of_lt_succ hi) with hlow | rfl
  · rw [if_neg (Nat.ne_of_lt hlow), getLsbD_rlc1 _ _ hlow]
    cases i with
    | zero => rfl
    | succ i =>
      have hplace : (i + 1 + 8) % 9 = i := by omega
      rw [hplace, if_neg (Nat.succ_ne_zero i), if_neg (by omega), Nat.add_sub_cancel]
  · rfl

theorem execTimes_rla_ringBit (k : Nat) (s : State) :
    ∃ t, execTimes k .rla s = .next t ∧ ∀ i, i < 9 → ringBit t i = ringBit s ((i + 8 * k) % 9) := by
  induction k generalizing s with
  | zero => exact ⟨s, rfl, fun i hi => by rw [Nat.mul_zero, Nat.add_zero, Nat.mod_eq_of_lt hi]⟩
  | succ k ih =>
    obtain ⟨t, ht, hone⟩ := exec_rla_ringBit s
    obtain ⟨u, hu, hmany⟩ := ih t
    refine ⟨u, (execTimes_succ k ht).trans hu, fun i hi => ?_⟩
    have hplace : ((i + 8 * k) % 9 + 8) % 9 = (i + 8 * (k + 1)) % 9 := by omega
    rw [hmany i hi, hone _ (Nat.mod_lt _ (by decide)), hplace]

theorem execTimes_nine_rla (s : State) :
    ∃ t, execTimes 9 .rla s = .next t ∧ t.rf.a = s.rf.a ∧ t.rf.f.c = s.rf.f.c := by
  obtain ⟨t, ht, hring⟩ := execTimes_rla_ringBit 9 s
  have hsame (i : Nat) (hi : i < 9) : ringBit t i = ringBit s i := by
    have hturn : (i + 8 * 9) % 9 = i := by omega
    rw [hring i hi, hturn]
  refine ⟨t, ht, BitVec.eq_of_getLsbD_eq fun i hi => ?_, hsame 8 (by decide)⟩
  have hbit := hsame i (Nat.lt_succ_of_lt hi)
  rwa [ringBit, ringBit, if_neg (Nat.ne_of_lt hi), if_neg (Nat.ne_of_lt hi)] at hbit

/-- Settles O25: complement, negation and the exchange of nibbles undo themselves, and nine RLAs are one
full turn of the nine bits of A and C. -/
theorem repeatedOperationsRestore : Obligations.RepeatedOperationsRestore :=
  fun s => ⟨⟨_, rfl, BitVec.not_not, rfl, rfl⟩, ⟨_, rfl, Bool.not_not _⟩, ⟨_, _, rfl, rfl, rfl⟩,
    fun r => execTimes_two_swap r s, execTimes_nine_rla s⟩

end Sys2Proof.Machine
end
